-- ==== Sys2Proof/Word.lean ====
section
/-! DEFINITION. The widths of the data (spec R8, R9): bytes of 8 bits, channel values of 11 bits. -/

namespace Sys2Proof

/-- A `u8` of R9: a byte of the input stream. -/
abbrev Byte := BitVec 8

/-- A `u11` of R9: a channel value 0..2047. -/
abbrev Chan := BitVec 11

end Sys2Proof
end

