-- ==== Sys2Proof/Config.lean ====
section
/-! DEFINITION. The constants of R6, none of them programmable, and the one implementation parameter of R7, `BUF_CAP`. -/

namespace Sys2Proof.Config

/-- `ADDR` of R6: the only device-address byte that starts a frame. -/
def addr : Byte := 0xC8

/-- `TYPE_RC` of R6: the only frame type decoded. -/
def typeRc : Byte := 0x16

/-- `POLY` of R6: the CRC-8/DVB-S2 polynomial without its x^8 term. -/
def poly : Byte := 0xD5

/-- `CRC_INIT` of R6: the seed the validator passes to the CRC. -/
def crcInit : Byte := 0x00

/-- `PAYLOAD_RC` of R6: the payload length the unpacker accepts. -/
def payloadRc : Nat := 22

/-- `LEN_RC` of R6: the length field of an RC frame. -/
def lenRc : Nat := 24

/-- `FRAME_RC` of R6: the total length of an RC frame. -/
def frameRc : Nat := 26

/-- `MAX_FRAME` of R6: the largest total frame, at length field 255. -/
def maxFrame : Nat := 257

/-- How far `BUF_CAP` exceeds `MAX_FRAME`. The spec leaves `BUF_CAP` open (R7, D3), so this constant has no value
that Lean can evaluate: a statement holds for every capacity R7 allows. Log entry 8. -/
opaque bufSlack : Nat

/-- `BUF_CAP` of R7: at least `MAX_FRAME`. Irreducible, so that no tactic counts its 257 out one by one. -/
@[irreducible] def bufCap : Nat := bufSlack + maxFrame

end Sys2Proof.Config
end

