-- ==== Sys2Proof/Syntax.lean ====
section
/-! DEFINITION. The data the spec's pseudocode speaks of (R16, R20, R140, R160, R220) and the operations of R71,
one constructor of Instr for each row of spec/opcode_table.json. -/

namespace Sys2Proof

/-- ChannelSet of R16: 16 values of 11 bits, indexed 0..15. -/
abbrev ChannelSet := Vector Chan 16

/-- CandidateFrame of R16: what SYNC.EXTRACT forms from a raw frame. -/
structure Candidate where
  frameType : Byte
  payload   : List Byte
  crc       : Byte
  deriving DecidableEq, Repr

/-- ChannelDelta of R16, R20: a `u4` index and a `u16` value. -/
structure Delta where
  index : Fin 16
  value : BitVec 16
  deriving DecidableEq, Repr

/-- The synchronizer's decision of R140. -/
inductive SyncAct where
  | wait
  | drop
  | extract (n : Nat)
  deriving DecidableEq, Repr

/-- The status events of R220. -/
inductive Status where
  | resync
  | malformedLen
  | crcFail
  | typeIgnored
  | rcBadLength
  | rcDecoded
  deriving DecidableEq, Repr

/-- The result of VALIDATE (R160): one of four outcomes, and a ChannelSet with the last of them alone. -/
inductive Verdict where
  | crcFail
  | typeIgnored
  | rcBadLength
  | rcDecoded (cs : ChannelSet)
  deriving DecidableEq, Repr

/-- The operations of R71. The operands of an operation of the core are what the decoder read at the head of the
ByteBuffer (log entry 7). -/
inductive Instr where
  /-- CRC8.STEP, R100. -/
  | crc8Step (c b : Byte)
  /-- CRC8, R101. -/
  | crc8 (seed : Byte) (data : List Byte)
  /-- UNPACK, R120. -/
  | unpack (p : List Byte)
  /-- SYNC.WAIT, R142. -/
  | syncWait
  /-- SYNC.DROP, R141: `b` is the byte dropped. -/
  | syncDrop (b : Byte)
  /-- SYNC.EXTRACT, R143: `n = L + 2`. -/
  | syncExtract (n : Nat)
  /-- FRAME.MALFORMED, R144: `f` is the raw frame. -/
  | frameMalformed (f : List Byte)
  /-- VALIDATE, R160. -/
  | validate (cand : Candidate)
  /-- VAL.CRC_FAIL, R161. -/
  | valCrcFail (cand : Candidate)
  /-- VAL.IGNORE, R162. -/
  | valIgnore (cand : Candidate)
  /-- VAL.RC_BADLEN, R163. -/
  | valRcBadLen (cand : Candidate)
  /-- VAL.RC, R164. -/
  | valRc (cand : Candidate)
  /-- DISPATCH, R180: `new` is the decoded ChannelSet. -/
  | dispatch (new : ChannelSet)
  /-- DELIVER, R185: `d` is the delta the output port presents. -/
  | deliver (d : Delta)
  /-- FEED, R202. -/
  | feed (b : Byte)
  /-- CORE, R203. -/
  | core
  /-- RESET, R250. -/
  | reset
  deriving DecidableEq, Repr

end Sys2Proof
end

