-- ==== Sys2Proof/Machine/Unpacker.lean ====
section
/-! DEFINITION. The Channel Unpacker (spec/41_unpacker.md): UNPACK and its inverse PACK as pure functions, no state. -/

namespace Sys2Proof.Machine

/-- Bit `j` of the payload's bit stream, R121. UNPACK asks for j in 0..175 of 22 bytes alone, so the default of `getD`
is never read. -/
def streamBit (p : List Byte) (j : Nat) : Bool :=
  (p.getD (j >>> 3) 0).getLsbD (j &&& 7)

/-- Channel `i` as R120 builds it: the OR of its eleven stream bits, the first one the least significant. -/
def channelOf (p : List Byte) (i : Nat) : Chan :=
  (List.range 11).foldl
    (fun v k => v ||| ((BitVec.ofBool (streamBit p (11 * i + k))).setWidth 11 <<< k)) 0

/-- UNPACK of R120: a payload of 22 bytes gives 16 channels, any other length gives no ChannelSet (D8). -/
def unpack (p : List Byte) : Option ChannelSet :=
  if p.length ≠ Config.payloadRc then none
  else some (Vector.ofFn fun i : Fin 16 => channelOf p i.val)

/-- The 22 bytes as one little-endian integer, R47 and R123 (a). -/
def payloadInt (p : List Byte) : Nat :=
  (List.range Config.payloadRc).foldl (fun a j => a + ((p.getD j 0).toNat <<< (8 * j))) 0

/-- The 176-bit integer of R124. -/
def packedInt (cs : ChannelSet) : Nat :=
  (List.finRange 16).foldl (fun a i => a + (cs[i].toNat <<< (11 * i.val))) 0

/-- PACK of R124. The block never performs it; it gives the bytes of a ChannelSet in the layout of R64. -/
def pack (cs : ChannelSet) : List Byte :=
  (List.range Config.payloadRc).map fun j => BitVec.ofNat 8 (packedInt cs >>> (8 * j))

end Sys2Proof.Machine
end

