-- ==== Sys2Proof/Machine/Operands.lean ====
section
/-! DEFINITION. What the core reads at the head of the ByteBuffer: the synchronizer's decision (R140), the fields of a
raw frame (R60 to R62), the validation of a candidate (R160), and the deltas of a change (R180). Pure functions. -/

namespace Sys2Proof.Machine

/-- SyncAction of R140. `L + 2` is a natural number, so it never wraps (R69). -/
def syncAction (buf : List Byte) : SyncAct :=
  match buf with
  | [] => .wait
  | a :: rest =>
    if a ≠ Config.addr then .drop
    else
      match rest with
      | [] => .wait
      | l :: _ => if buf.length < l.toNat + 2 then .wait else .extract (l.toNat + 2)

/-- The fields of a raw frame, R62 with the half-open payload slice `f[3 .. L+1)`. Where L is 0 or 1 the bytes hold no
type and no CRC, and there is no candidate (R144). -/
def candidateOf (f : List Byte) : Option Candidate :=
  match f with
  | _ :: l :: t :: rest =>
    if l.toNat < 2 then none
    else
      match rest[l.toNat - 2]? with
      | some c => some ⟨t, rest.take (l.toNat - 2), c⟩
      | none => none
  | _ => none

/-- The raw frame a candidate comes from, R60: address, length field, type, payload, CRC. -/
def rawFrame (cand : Candidate) : List Byte :=
  Config.addr :: BitVec.ofNat 8 (cand.payload.length + 2) :: cand.frameType :: (cand.payload ++ [cand.crc])

/-- The CRC the validator computes, R63 and R160. -/
def computedCrc (cand : Candidate) : Byte :=
  crc8 (crc8 Config.crcInit [cand.frameType]) cand.payload

/-- VALIDATE of R160: the CRC first, then the type, then the unpacker's length check. -/
def validate (cand : Candidate) : Verdict :=
  if computedCrc cand ≠ cand.crc then .crcFail
  else if cand.frameType ≠ Config.typeRc then .typeIgnored
  else
    match unpack cand.payload with
    | none => .rcBadLength
    | some cs => .rcDecoded cs

/-- The outcome code of R160, with the names of R220. -/
def verdictStatus : Verdict → Status
  | .crcFail => .crcFail
  | .typeIgnored => .typeIgnored
  | .rcBadLength => .rcBadLength
  | .rcDecoded _ => .rcDecoded

/-- The Option part of VALIDATE's result, R160. -/
def verdictChannels : Verdict → Option ChannelSet
  | .crcFail => none
  | .typeIgnored => none
  | .rcBadLength => none
  | .rcDecoded cs => some cs

/-- One lane of DISPATCH's comparison, R180: a delta with the value zero-extended to 16 bits, or none. -/
def laneDelta (last new : ChannelSet) (i : Fin 16) : Option Delta :=
  if new[i] ≠ last[i] then some ⟨i, new[i].setWidth 16⟩ else none

/-- The delta list `out` of R180, in ascending index. -/
def changedDeltas (last new : ChannelSet) : List Delta :=
  (List.finRange 16).filterMap (laneDelta last new)

/-- One lane of DISPATCH's update, R180: `last[i] <- new[i]` where they differ. -/
def laneUpdate (last new : ChannelSet) (i : Fin 16) : Chan :=
  if new[i] ≠ last[i] then new[i] else last[i]

/-- `last` after DISPATCH, R180. -/
def updatedLast (last new : ChannelSet) : ChannelSet :=
  Vector.ofFn (laneUpdate last new)

/-- The head word of R65, where three bytes are present: address in bits 23:16, length in 15:8, type in 7:0. -/
def headWord (buf : List Byte) : Option (BitVec 24) :=
  match buf with
  | a :: l :: t :: _ => some (a ++ l ++ t)
  | _ => none

end Sys2Proof.Machine
end

