-- ==== Sys2Proof/WellFormed.lean ====
section
/-! DEFINITION. Which operands an operation may carry: what the decoder can have read for it (R140, R62, R160, R181). -/

namespace Sys2Proof

/-- A raw frame whose length field is 0 or 1, R144: address, length field, and as many bytes as it counts. -/
def malformedFrame (f : List Byte) : Bool :=
  match f with
  | a :: l :: rest => a == Config.addr && decide (l.toNat < 2) && rest.length == l.toNat
  | _ => false

/-- A payload that a length field can count: L - 2 bytes with L at most 255 (R61). -/
def payloadFits (cand : Candidate) : Bool :=
  decide (cand.payload.length ≤ 253)

/-- The operand checks, each from the rule that gives the operation its operands. -/
def wellFormed : Instr → Bool
  | .crc8Step _ _ => true
  | .crc8 _ _ => true
  | .unpack _ => true
  | .syncWait => true
  | .syncDrop b => b != Config.addr
  | .syncExtract n => decide (2 ≤ n) && decide (n ≤ Config.maxFrame)
  | .frameMalformed f => malformedFrame f
  | .validate cand => payloadFits cand
  | .valCrcFail cand => payloadFits cand && Machine.verdictStatus (Machine.validate cand) == .crcFail
  | .valIgnore cand => payloadFits cand && Machine.verdictStatus (Machine.validate cand) == .typeIgnored
  | .valRcBadLen cand => payloadFits cand && Machine.verdictStatus (Machine.validate cand) == .rcBadLength
  | .valRc cand => payloadFits cand && Machine.verdictStatus (Machine.validate cand) == .rcDecoded
  | .dispatch _ => true
  | .deliver d => decide (d.value.toNat < 2048)
  | .feed _ => true
  | .core => true
  | .reset => true

end Sys2Proof
end

