-- ==== Sys2Proof/Decode.lean ====
section
/-! DEFINITION. From bytes to operations and back, by the formats of spec/opcode_table.json (R65, R66, R71). The table's
rows are words of nine different formats, so the decoder takes the format beside the bytes (log entry 10). -/

namespace Sys2Proof

/-- Where a word of the table stands: the table's column "format". The head word is read in three views: the
synchronizer's decision (R140), the one operation the state selects (R66), and the CORE step as a whole (R203). -/
inductive Format where
  /-- CRC8.STEP: `ccccccccbbbbbbbb`. -/
  | crc8Step
  /-- CRC8: `ssssssss d*`. -/
  | crc8
  /-- UNPACK: `p*`. -/
  | unpack
  /-- VALIDATE: `tttttttt p* cccccccc`. -/
  | validate
  /-- DISPATCH: `n*`, the sixteen values in the layout of R64 (log entry 11). -/
  | dispatch
  /-- The head of the ByteBuffer as SyncAction sees it. -/
  | sync
  /-- The head of the ByteBuffer as the selection order of R66 sees it. -/
  | head
  /-- The head of the ByteBuffer as CORE sees it. -/
  | core
  /-- DELIVER: `iiii0000 0vvvvvvvvvvv` on the output port. -/
  | output
  /-- FEED: `bbbbbbbb` on the input port. -/
  | input
  /-- RESET: `r` on the host's reset input. -/
  | host
  deriving DecidableEq, Repr

/-- Why the decoder refuses a word. -/
inductive Reject where
  /-- The word has not as many bytes as its format. -/
  | wrongLength
  /-- A bit the format gives as 0 is 1 (`out_value[15:11]`, R181, or a bit above the word's own). -/
  | reservedBits
  /-- The head of the buffer is one that CORE has no step for (R204). -/
  | coreWaits
  /-- `rst` is 0: no RESET is asked for. -/
  | noReset
  deriving DecidableEq, Repr

/-- The operation a validated candidate selects, R66 rows 7 to 10. -/
def decodeCandidate (cand : Candidate) : Instr :=
  match Machine.validate cand with
  | .crcFail => .valCrcFail cand
  | .typeIgnored => .valIgnore cand
  | .rcBadLength => .valRcBadLen cand
  | .rcDecoded _ => .valRc cand

/-- The operation a raw frame selects, R66 rows 6 to 10. -/
def decodeFrame (f : List Byte) : Instr :=
  match Machine.candidateOf f with
  | none => .frameMalformed f
  | some cand => decodeCandidate cand

/-- The one operation of the core that the buffer selects, R66 rows 2 to 10. -/
def decodeHead (buf : List Byte) : Instr :=
  match buf with
  | [] => .syncWait
  | b :: rest =>
    match Machine.syncAction (b :: rest) with
    | .wait => .syncWait
    | .drop => .syncDrop b
    | .extract n => decodeFrame ((b :: rest).take n)

/-- The synchronizer's view of the buffer, R140 to R143. -/
def decodeSync (buf : List Byte) : Instr :=
  match buf with
  | [] => .syncWait
  | b :: rest =>
    match Machine.syncAction (b :: rest) with
    | .wait => .syncWait
    | .drop => .syncDrop b
    | .extract n => .syncExtract n

/-- The word of the output port: the index in four bits, then the value in sixteen, of which 15:11 are 0 (R181). The
twenty bits stand in three bytes, the four above them 0 (log entry 11). -/
def decodeOutput : List Byte → Except Reject Instr
  | [i, hi, lo] =>
    if h : i.toNat < 16 ∧ hi.toNat < 8 then .ok (.deliver ⟨⟨i.toNat, h.1⟩, hi ++ lo⟩)
    else .error .reservedBits
  | _ => .error .wrongLength

/-- The operands of VALIDATE: type, payload, received CRC. -/
def decodeValidate : List Byte → Except Reject Instr
  | t :: rest =>
    match rest.getLast? with
    | some c =>
      if rest.length ≤ 254 then .ok (.validate ⟨t, rest.dropLast, c⟩) else .error .wrongLength
    | none => .error .wrongLength
  | [] => .error .wrongLength

/-- The reset input: one bit. -/
def decodeHost : List Byte → Except Reject Instr
  | [r] => if r = 1 then .ok .reset else if r = 0 then .error .noReset else .error .reservedBits
  | _ => .error .wrongLength

/-- The decoder: total on any bytes, refusing by name. -/
def decode (fmt : Format) (bytes : List Byte) : Except Reject Instr :=
  match fmt with
  | .crc8Step =>
    match bytes with
    | [c, b] => .ok (.crc8Step c b)
    | _ => .error .wrongLength
  | .crc8 =>
    match bytes with
    | s :: data => .ok (.crc8 s data)
    | [] => .error .wrongLength
  | .unpack => .ok (.unpack bytes)
  | .validate => decodeValidate bytes
  | .dispatch =>
    match Machine.unpack bytes with
    | some cs => .ok (.dispatch cs)
    | none => .error .wrongLength
  | .sync => .ok (decodeSync bytes)
  | .head => .ok (decodeHead bytes)
  | .core => if Machine.syncAction bytes = .wait then .error .coreWaits else .ok .core
  | .output => decodeOutput bytes
  | .input =>
    match bytes with
    | [b] => .ok (.feed b)
    | _ => .error .wrongLength
  | .host => decodeHost bytes

/-- The format each operation's word stands in. -/
def formatOf : Instr → Format
  | .crc8Step _ _ => .crc8Step
  | .crc8 _ _ => .crc8
  | .unpack _ => .unpack
  | .syncWait => .head
  | .syncDrop _ => .head
  | .syncExtract _ => .sync
  | .frameMalformed _ => .head
  | .validate _ => .validate
  | .valCrcFail _ => .head
  | .valIgnore _ => .head
  | .valRcBadLen _ => .head
  | .valRc _ => .head
  | .dispatch _ => .dispatch
  | .deliver _ => .output
  | .feed _ => .input
  | .core => .core
  | .reset => .host

/-- The encoder, from the same rows. SYNC.WAIT's word is the empty buffer; SYNC.EXTRACT's and CORE's rows fix fewer
bits than a word has, and the rest is written as 0 (log entry 10). -/
def encode : Instr → List Byte
  | .crc8Step c b => [c, b]
  | .crc8 s data => s :: data
  | .unpack p => p
  | .syncWait => []
  | .syncDrop b => [b]
  | .syncExtract n => Config.addr :: BitVec.ofNat 8 (n - 2) :: List.replicate (n - 2) 0
  | .frameMalformed f => f
  | .validate cand => cand.frameType :: (cand.payload ++ [cand.crc])
  | .valCrcFail cand => Machine.rawFrame cand
  | .valIgnore cand => Machine.rawFrame cand
  | .valRcBadLen cand => Machine.rawFrame cand
  | .valRc cand => Machine.rawFrame cand
  | .dispatch new => Machine.pack new
  | .deliver d => [BitVec.ofNat 8 d.index.val, d.value.extractLsb' 8 8, d.value.extractLsb' 0 8]
  | .feed b => [b]
  | .core => [0x00]
  | .reset => [0x01]

/-- The `n` bytes of a word whose bits the table numbers with the last byte at bits 7..0: the first byte of the stream
holds the highest bits (R65). -/
def wordBytes : Nat → Nat → List Byte
  | 0, _ => []
  | n + 1, w => BitVec.ofNat 8 (w >>> (8 * n)) :: wordBytes n w

/-- A word of the table laid out at the head of the buffer, with zeros after it up to the longest frame. -/
def paddedFrame (nbits w : Nat) : List Byte :=
  (wordBytes ((nbits + 7) / 8) w ++ List.replicate Config.maxFrame 0).take Config.maxFrame

/-- The operation the decoder reads from a word of the table, told apart by the word's width: 1 bit RESET, 8 bits FEED,
16 bits CRC8.STEP, 20 bits DELIVER, any other width a head word (log entry 12). -/
def decodeTableWord (nbits w : Nat) : Option Instr :=
  match nbits with
  | 1 => (decode .host (wordBytes 1 w)).toOption
  | 8 => (decode .input (wordBytes 1 w)).toOption
  | 16 => (decode .crc8Step (wordBytes 2 w)).toOption
  | 20 => (decode .output (wordBytes 3 w)).toOption
  | _ => (decode .head (paddedFrame nbits w)).toOption

end Sys2Proof
end

