-- ==== Sys2Proof/Machine/State.lean ====
section
/-! DEFINITION. The state of the block (R20) with the model's own three fields beside it, why a step may stop, and the
state after RESET (R31). -/

namespace Sys2Proof.Machine

/-- A port event of a run's observation, R206. -/
inductive PortEvent where
  /-- `In(b)`: a FEED took the byte. -/
  | input (b : Byte)
  /-- `Out(index, value)`: a DELIVER handed the delta over. -/
  | output (d : Delta)
  /-- `Ev(code)`: a CORE step raised a status event. -/
  | status (ev : Status)
  /-- `Reset`. -/
  | reset
  deriving DecidableEq, Repr

/-- The combinational units of the block (R100, R101, R120, R160). -/
inductive CombUnit where
  | crc8Step
  | crc8
  | unpack
  | validate
  deriving DecidableEq, Repr

/-- What the combinational unit last evaluated on its own gives at its output (log entry 5). -/
inductive UnitOut where
  | none
  | crc (v : Byte)
  | channels (r : Option ChannelSet)
  | verdict (code : Status) (r : Option ChannelSet)
  deriving DecidableEq, Repr

/-- One choice of the agents of R200: who moves, and with what (log entry 1). -/
inductive Turn where
  /-- The core may take a CORE step. -/
  | core
  /-- The producer offers a byte: `in_valid = 1`, `in_data = b`. -/
  | offer (b : Byte)
  /-- The consumer is ready: `out_ready = 1`. -/
  | accept
  /-- The reset source raises `rst`. -/
  | reset
  /-- A bench reads a combinational unit on an operand word; no agent of R200 does (log entry 5). -/
  | evaluate (u : CombUnit) (word : List Byte)
  deriving DecidableEq, Repr

/-- `buf`, `last` and `pend` are the spec's state (R20). `agenda`, `obs` and `unitOut` are the model's own: the host's
choices to come, the observation so far, a combinational output. -/
structure State where
  /-- The ByteBuffer, R21, oldest byte first. -/
  buf     : List Byte
  /-- The last-emitted ChannelSet, R22. -/
  last    : ChannelSet
  /-- The pending-delta register, R23, oldest first. -/
  pend    : List Delta
  /-- The host's choices still to come, oldest first (log entry 1). -/
  agenda  : List Turn
  /-- The observation of the run so far, R206, oldest first (log entry 4). -/
  obs     : List PortEvent
  /-- The output of the unit last evaluated on its own (log entry 5). -/
  unitOut : UnitOut
  deriving DecidableEq, Repr

/-- No condition of the block traps or stops it (R225), so there is no fault (log entry 19). Safe: nothing is raised
here that the hardware does not raise. -/
inductive Fault where
  deriving DecidableEq, Repr

/-- Why a step has no meaning. -/
inductive Refusal where
  /-- Raised by an arm of exec that has no meaning yet; no arm is left so. Safe: it stops. -/
  | notModelled (mnemonic : String)
  /-- Raised by step alone, when a bench offers a combinational unit a word that the decoder refuses (log entry 20).
  Safe: it stops, and no agent of R200 makes such an offer. -/
  | undecodable (why : Reject)
  deriving DecidableEq, Repr

/-- Sixteen zeros: `last` after RESET (R31). -/
def zeroChannels : ChannelSet :=
  Vector.replicate 16 0

/-- The state after RESET, R31 and R250, where a run begins (R253). -/
def State.reset : State where
  buf := []
  last := zeroChannels
  pend := []
  agenda := []
  obs := []
  unitOut := .none

end Sys2Proof.Machine
end

