-- ==== Sys2Proof/Machine/Flags.lean ====
section
/-! DEFINITION. The block holds no flags (R28). What it reports instead is a status event a step, with the codes of
R220 on the status port. -/

namespace Sys2Proof.Machine

/-- The event codes of R220. Codes 0 and 7 are never signalled. -/
def statusCode : Status → BitVec 3
  | .resync => 1
  | .malformedLen => 2
  | .crcFail => 3
  | .typeIgnored => 4
  | .rcBadLength => 5
  | .rcDecoded => 6

/-- The event a code stands for; 0 and 7 stand for none (I8). -/
def statusOfCode (c : BitVec 3) : Option Status :=
  match c.toNat with
  | 1 => some .resync
  | 2 => some .malformedLen
  | 3 => some .crcFail
  | 4 => some .typeIgnored
  | 5 => some .rcBadLength
  | 6 => some .rcDecoded
  | _ => none

/-- Appends one port event to the observation, R206. -/
def State.record (e : PortEvent) (s : State) : State :=
  { s with obs := s.obs ++ [e] }

/-- `raise Event(ev)` of R12 and R221: reported once, nothing else changes. -/
def State.raise (ev : Status) (s : State) : State :=
  s.record (.status ev)

end Sys2Proof.Machine
end

