-- ==== Sys2Proof/Machine/Ports.lean ====
section
/-! DEFINITION. The block's outgoing ports as functions of the state and of `rst`, R201. A port whose value is "don't
care" has none here (I7, log entry 15). -/

namespace Sys2Proof.Machine

/-- `in_ready`. -/
def inReady (rst : Bool) (s : State) : Bool :=
  !rst && decide (s.buf.length < Config.bufCap)

/-- `out_valid`. -/
def outValid (rst : Bool) (s : State) : Bool :=
  !rst && !s.pend.isEmpty

/-- The delta presented: `pend[0]` while `out_valid`, otherwise nothing to read. -/
def outDelta (rst : Bool) (s : State) : Option Delta :=
  if outValid rst s then s.pend.head? else none

/-- `out_index`, four bits. -/
def outIndex (rst : Bool) (s : State) : Option (BitVec 4) :=
  (outDelta rst s).map fun d => BitVec.ofNat 4 d.index.val

/-- `out_value`, sixteen bits. -/
def outValue (rst : Bool) (s : State) : Option (BitVec 16) :=
  (outDelta rst s).map fun d => d.value

/-- `ev_valid` and `ev_code` of one port event: a code where the event is a status event. -/
def evCode : PortEvent → Option (BitVec 3)
  | .input _ => none
  | .output _ => none
  | .status ev => some (statusCode ev)
  | .reset => none

end Sys2Proof.Machine
end

