-- ==== Sys2Proof/Machine/Ops.lean ====
section
/-! DEFINITION. The primitives of R12 over the state, the effect of each part of a CORE step, and when an operation is
taken. The block has no trap entry and no trap return (R225, R226), so there is no such operation here. -/

namespace Sys2Proof.Machine

/-- The bound on the ByteBuffer, R20: its one canonical form is the list of its bytes. -/
abbrev Memory.wf (m : List Byte) : Prop :=
  m.length ≤ Config.bufCap

/-- `MemRead(i, n)` of R12; every use is guarded by `i + n <= |buf|`. -/
def State.memRead (i n : Nat) (s : State) : List Byte :=
  (s.buf.drop i).take n

/-- `Append(b)` of R12. -/
def State.append (b : Byte) (s : State) : State :=
  { s with buf := s.buf ++ [b] }

/-- `DropFront(n)` of R12. -/
def State.dropFront (n : Nat) (s : State) : State :=
  { s with buf := s.buf.drop n }

/-- The update of DISPATCH, R180: all lanes of `last` and the load of `pend` together (R182). -/
def State.dispatchSet (new : ChannelSet) (s : State) : State :=
  { s with last := updatedLast s.last new, pend := changedDeltas s.last new }

/-- `pend <- pend[1..]` of R185. -/
def State.popPend (s : State) : State :=
  { s with pend := s.pend.tail }

/-- The assignments of R250. The host's choices, the observation and the bench's output are not the block's and stay
(log entry 24). -/
def State.clear (s : State) : State :=
  { s with buf := [], last := zeroChannels, pend := [] }

/-- Puts a value on a combinational unit's output (log entry 5). -/
def State.setUnitOut (v : UnitOut) (s : State) : State :=
  { s with unitOut := v }

/-- SYNC.DROP, R141. -/
def dropEffect (s : State) : State :=
  (s.dropFront 1).raise .resync

/-- FRAME.MALFORMED, R144, after the bytes are removed. -/
def malformedEffect (s : State) : State :=
  s.raise .malformedLen

/-- VAL.CRC_FAIL, R161, after the bytes are removed. -/
def crcFailEffect (s : State) : State :=
  s.raise .crcFail

/-- VAL.IGNORE, R162, after the bytes are removed. -/
def ignoreEffect (s : State) : State :=
  s.raise .typeIgnored

/-- VAL.RC_BADLEN, R163, after the bytes are removed. -/
def badLenEffect (s : State) : State :=
  s.raise .rcBadLength

/-- VAL.RC, R164, after the bytes are removed: DISPATCH, then the event. -/
def rcEffect (cs : ChannelSet) (s : State) : State :=
  (s.dispatchSet cs).raise .rcDecoded

/-- CORE's case split on the outcome code, R203. -/
def verdictEffect (v : Verdict) (s : State) : State :=
  match v with
  | .crcFail => crcFailEffect s
  | .typeIgnored => ignoreEffect s
  | .rcBadLength => badLenEffect s
  | .rcDecoded cs => rcEffect cs s

/-- SYNC.EXTRACT with what follows in the same CORE step, R143 and R203. -/
def extractEffect (n : Nat) (s : State) : State :=
  match candidateOf (s.memRead 0 n) with
  | none => malformedEffect (s.dropFront n)
  | some cand => verdictEffect (validate cand) (s.dropFront n)

/-- The state selects the operation of the core, R66 with row 1 and R204: no delta is pending, and the buffer's head is
that operation. -/
def selects (s : State) (i : Instr) : Bool :=
  s.pend.isEmpty && decide (decodeHead s.buf = i)

/-- A step that is taken when it is enabled, and otherwise leaves the state as it is (R204, R205; log entry 3). -/
def takeIf (enabled : Bool) (s t : State) : Host.Outcome State Fault Refusal :=
  if enabled then .next t else .next s

end Sys2Proof.Machine
end

