-- ==== Sys2Proof/Machine/CombinationalUnits.lean ====
section
/-! DEFINITION. The meanings of the combinational functions CRC8.STEP, CRC8, UNPACK and VALIDATE: always defined, no
state of the block written (R100, R101, R120, R160). The result stands on the unit's output (log entry 5). -/

namespace Sys2Proof.Machine

/-- CRC8.STEP, R100. -/
def execCrc8Step (c b : Byte) (s : State) : Host.Outcome State Fault Refusal :=
  .next (s.setUnitOut (.crc (crc8Step c b)))

/-- CRC8, R101. -/
def execCrc8 (seed : Byte) (data : List Byte) (s : State) : Host.Outcome State Fault Refusal :=
  .next (s.setUnitOut (.crc (crc8 seed data)))

/-- UNPACK, R120. -/
def execUnpack (p : List Byte) (s : State) : Host.Outcome State Fault Refusal :=
  .next (s.setUnitOut (.channels (unpack p)))

/-- VALIDATE, R160. -/
def execValidate (cand : Candidate) (s : State) : Host.Outcome State Fault Refusal :=
  .next (s.setUnitOut (.verdict (verdictStatus (validate cand)) (verdictChannels (validate cand))))

end Sys2Proof.Machine
end

