-- ==== Sys2Proof/Machine/Dispatcher.lean ====
section
/-! DEFINITION. The meanings of DISPATCH and DELIVER (spec/44_dispatcher.md). -/

namespace Sys2Proof.Machine

/-- DISPATCH, R180: its precondition is an empty `pend`. -/
def execDispatch (new : ChannelSet) (s : State) : Host.Outcome State Fault Refusal :=
  takeIf s.pend.isEmpty s (s.dispatchSet new)

/-- DELIVER, R185: the transfer of the delta the port presents, R201. -/
def execDeliver (d : Delta) (s : State) : Host.Outcome State Fault Refusal :=
  takeIf (decide (outDelta false s = some d)) s (s.popPend.record (.output d))

end Sys2Proof.Machine
end

