-- ==== Sys2Proof/Machine/Pipeline.lean ====
section
/-! DEFINITION. The meanings of FEED, CORE and RESET (R202, R203, R250). -/

namespace Sys2Proof.Machine

/-- FEED, R202: enabled while `in_ready`; a byte offered to a full buffer is not taken (R43, R208). -/
def execFeed (b : Byte) (s : State) : Host.Outcome State Fault Refusal :=
  takeIf (inReady false s) s ((s.append b).record (.input b))

/-- CORE, R203, enabled as R204 says. -/
def execCore (s : State) : Host.Outcome State Fault Refusal :=
  match syncAction s.buf with
  | .wait => .next s
  | .drop => takeIf s.pend.isEmpty s (dropEffect s)
  | .extract n => takeIf s.pend.isEmpty s (extractEffect n s)

/-- RESET, R250: enabled in every state. -/
def execReset (s : State) : Host.Outcome State Fault Refusal :=
  .next (s.clear.record .reset)

end Sys2Proof.Machine
end

