-- ==== Sys2Proof/Machine/Synchronizer.lean ====
section
/-! DEFINITION. The meanings of SYNC.WAIT, SYNC.DROP, SYNC.EXTRACT and FRAME.MALFORMED (spec/42_synchronizer.md). Each is
a whole CORE step, since no state stands between a frame's removal and its outcome (R50, log entry 6). -/

namespace Sys2Proof.Machine

/-- SYNC.WAIT, R142: no step, the buffer is retained as it is. -/
def execSyncWait (s : State) : Host.Outcome State Fault Refusal :=
  .next s

/-- SYNC.DROP, R141. -/
def execSyncDrop (b : Byte) (s : State) : Host.Outcome State Fault Refusal :=
  takeIf (selects s (.syncDrop b)) s (dropEffect s)

/-- SYNC.EXTRACT, R143: enabled when SyncAction is Extract(n) and no delta is pending. -/
def execSyncExtract (n : Nat) (s : State) : Host.Outcome State Fault Refusal :=
  takeIf (s.pend.isEmpty && decide (syncAction s.buf = .extract n)) s (extractEffect n s)

/-- FRAME.MALFORMED, R144, with the extraction of R66 row 6. -/
def execFrameMalformed (f : List Byte) (s : State) : Host.Outcome State Fault Refusal :=
  takeIf (selects s (.frameMalformed f)) s (malformedEffect (s.dropFront f.length))

end Sys2Proof.Machine
end

