-- ==== Sys2Proof/Machine/Validator.lean ====
section
/-! DEFINITION. The meanings of VAL.CRC_FAIL, VAL.IGNORE, VAL.RC_BADLEN and VAL.RC (spec/43_validator.md), each with the
extraction of its row of R66 (log entry 6). -/

namespace Sys2Proof.Machine

/-- VAL.CRC_FAIL, R161. -/
def execValCrcFail (cand : Candidate) (s : State) : Host.Outcome State Fault Refusal :=
  takeIf (selects s (.valCrcFail cand)) s (crcFailEffect (s.dropFront (rawFrame cand).length))

/-- VAL.IGNORE, R162. -/
def execValIgnore (cand : Candidate) (s : State) : Host.Outcome State Fault Refusal :=
  takeIf (selects s (.valIgnore cand)) s (ignoreEffect (s.dropFront (rawFrame cand).length))

/-- VAL.RC_BADLEN, R163. -/
def execValRcBadLen (cand : Candidate) (s : State) : Host.Outcome State Fault Refusal :=
  takeIf (selects s (.valRcBadLen cand)) s (badLenEffect (s.dropFront (rawFrame cand).length))

/-- VAL.RC, R164: the ChannelSet is UNPACK of the payload. Without one the state does not select VAL.RC. -/
def execValRc (cand : Candidate) (s : State) : Host.Outcome State Fault Refusal :=
  match unpack cand.payload with
  | some cs => takeIf (selects s (.valRc cand)) s (rcEffect cs (s.dropFront (rawFrame cand).length))
  | none => .next s

end Sys2Proof.Machine
end

