-- ==== Sys2Proof/Machine/Dispatch.lean ====
section
/-! DEFINITION. exec: one arm per operation of R71. -/

namespace Sys2Proof.Machine

def exec (i : Instr) (s : State) : Host.Outcome State Fault Refusal :=
  match i with
  | .crc8Step c b => Sys2Proof.Machine.execCrc8Step c b s
  | .crc8 seed data => Sys2Proof.Machine.execCrc8 seed data s
  | .unpack p => Sys2Proof.Machine.execUnpack p s
  | .syncWait => Sys2Proof.Machine.execSyncWait s
  | .syncDrop b => Sys2Proof.Machine.execSyncDrop b s
  | .syncExtract n => Sys2Proof.Machine.execSyncExtract n s
  | .frameMalformed f => Sys2Proof.Machine.execFrameMalformed f s
  | .validate cand => Sys2Proof.Machine.execValidate cand s
  | .valCrcFail cand => Sys2Proof.Machine.execValCrcFail cand s
  | .valIgnore cand => Sys2Proof.Machine.execValIgnore cand s
  | .valRcBadLen cand => Sys2Proof.Machine.execValRcBadLen cand s
  | .valRc cand => Sys2Proof.Machine.execValRc cand s
  | .dispatch new => Sys2Proof.Machine.execDispatch new s
  | .deliver d => Sys2Proof.Machine.execDeliver d s
  | .feed b => Sys2Proof.Machine.execFeed b s
  | .core => Sys2Proof.Machine.execCore s
  | .reset => Sys2Proof.Machine.execReset s

end Sys2Proof.Machine
end

