-- ==== Sys2Proof/Machine/Fetch.lean ====
section
/-! DEFINITION. Which operation a step runs: the next choice on the agenda (R205), read through the decoder, and the
layout that makes one word of the opcode table the next operation. -/

namespace Sys2Proof.Machine

/-- What a step finds to do. -/
inductive Fetched where
  /-- An operation to run. -/
  | run (i : Instr)
  /-- The agent whose turn it is has no step: nothing is enabled for it. -/
  | hold
  /-- The word offered to a combinational unit is no encoding. -/
  | reject (why : Reject)
  deriving DecidableEq, Repr

/-- The format of a combinational unit's operand word. -/
def unitFormat : CombUnit → Format
  | .crc8Step => .crc8Step
  | .crc8 => .crc8
  | .unpack => .unpack
  | .validate => .validate

/-- Whose turn it is: the oldest choice, and the core's where the host has made none (log entry 2). -/
def State.turn (s : State) : Turn :=
  s.agenda.head?.getD .core

/-- The state with the choice used up. -/
def State.advance (s : State) : State :=
  { s with agenda := s.agenda.tail }

/-- The decoder's answer as something to do. -/
def fetchWord (fmt : Format) (bytes : List Byte) : Fetched :=
  match decode fmt bytes with
  | .ok i => .run i
  | .error e => .reject e

/-- What the agent whose turn it is does, R205: the core decodes the head of the buffer while no delta is pending (R66
row 1, R204), the producer's byte is a FEED, a ready consumer takes the delta presented, `rst` is a RESET. -/
def fetch (s : State) : Fetched :=
  match s.turn with
  | .core => if s.pend.isEmpty then fetchWord .head s.buf else .hold
  | .offer b => fetchWord .input [b]
  | .accept =>
    match outDelta false s with
    | some d => .run (.deliver d)
    | none => .hold
  | .reset => fetchWord .host [1]
  | .evaluate u word => fetchWord (unitFormat u) word

/-- The state with a choice put before all others. -/
def State.prompt (t : Turn) (s : State) : State :=
  { s with agenda := t :: s.agenda }

/-- The state in which the next step runs a word of the opcode table, by the same widths as `decodeTableWord` (log entry
12): a head word stands at the head of the buffer and the core is next, a FEED byte is offered, a CRC8.STEP word is on
its unit, a delta is presented to a ready consumer, `rst` is raised. -/
def placeWord (s : State) (nbits w : Nat) : State :=
  match nbits with
  | 1 => if wordBytes 1 w = [1] then s.prompt .reset else s
  | 8 => s.prompt (.offer (BitVec.ofNat 8 w))
  | 16 => s.prompt (.evaluate .crc8Step (wordBytes 2 w))
  | 20 =>
    match decode .output (wordBytes 3 w) with
    | .ok (.deliver d) => State.prompt .accept { s with pend := [d] }
    | _ => s
  | _ => State.prompt .core { s with buf := paddedFrame nbits w, pend := [] }

end Sys2Proof.Machine
end

