-- ==== Sys2Proof/Machine/Step.lean ====
section
/-! DEFINITION. One step of the relation of R205: the next choice is used up and the operation it gives is run. -/

namespace Sys2Proof.Machine

/-- One step. Nothing enabled leaves the block idle (R234). -/
def step (s : State) : Host.Outcome State Fault Refusal :=
  match fetch s with
  | .run i => exec i s.advance
  | .hold => .next s.advance
  | .reject e => .refused (.undecodable e)

/-- The state whose very next step runs the word (log entry 12). -/
def State.withFetchWord (s : State) (nbits w : Nat) : State :=
  placeWord s nbits w

end Sys2Proof.Machine
end

