-- ==== Sys2Proof/Machine/Fairness.lean ====
section
/-! DEFINITION. Runs without end and the weak fairness of R262: an unending sequence of turns, the consumer's readiness
beside it, and the states it goes through. Fairness is a premise of claims about such runs; `step` promises none of it
(log entry 25). -/

namespace Sys2Proof.Machine

/-- CORE is enabled, R204. -/
def State.coreEnabled (s : State) : Prop :=
  s.pend = [] ∧ syncAction s.buf ≠ .wait

/-- DELIVER is enabled, R205: a delta is pending and the consumer is ready. -/
def State.deliverEnabled (ready : Bool) (s : State) : Prop :=
  s.pend ≠ [] ∧ ready = true

/-- The states of a run in which turn `n` moves from state `n` to state `n + 1`; the consumer accepts only while it is
ready. -/
def UnendingRun (turns : Nat → Turn) (ready : Nat → Bool) (states : Nat → State) : Prop :=
  (∀ n, step { states n with agenda := [turns n] } = .next (states (n + 1))) ∧
    ∀ n, turns n = .accept → ready n = true

/-- R262's first assumption: a CORE step that stays enabled is eventually taken. -/
def CoreFair (turns : Nat → Turn) (states : Nat → State) : Prop :=
  ∀ n, (∀ m, n ≤ m → (states m).coreEnabled) → ∃ m, n ≤ m ∧ turns m = .core

/-- R262's second assumption: a DELIVER that stays enabled while the consumer stays ready is eventually taken. -/
def DeliverFair (turns : Nat → Turn) (ready : Nat → Bool) (states : Nat → State) : Prop :=
  ∀ n, (∀ m, n ≤ m → (states m).deliverEnabled (ready m)) → ∃ m, n ≤ m ∧ turns m = .accept

/-- A run without end that meets both assumptions of R262. -/
def FairRun (turns : Nat → Turn) (ready : Nat → Bool) (states : Nat → State) : Prop :=
  UnendingRun turns ready states ∧ CoreFair turns states ∧ DeliverFair turns ready states

/-- The consumer keeps accepting (R262; its duty of R208): from turn `n` on it is ready whenever a delta is presented. -/
def KeepsAccepting (ready : Nat → Bool) (states : Nat → State) (n : Nat) : Prop :=
  ∀ m, n ≤ m → (states m).pend ≠ [] → ready m = true

/-- How many bytes turn `m` takes from the front of the buffer: a turn of the core alone takes any. -/
def takenAt (turns : Nat → Turn) (states : Nat → State) (m : Nat) : Nat :=
  if turns m = .core then (states m).buf.length - (states (m + 1)).buf.length else 0

/-- How many bytes the `j` turns from turn `n` on take from the front of the buffer. -/
def takenFrom (turns : Nat → Turn) (states : Nat → State) (n : Nat) : Nat → Nat
  | 0 => 0
  | j + 1 => takenFrom turns states n j + takenAt turns states (n + j)

/-- The byte that stood at place `k` of the buffer before turn `n` still stands in it before turn `n + j`, that many
places nearer to the head as bytes were taken. Said of turns without a RESET between. -/
def ByteStands (turns : Nat → Turn) (states : Nat → State) (n k j : Nat) : Prop :=
  takenFrom turns states n j ≤ k ∧
    (states (n + j)).buf[k - takenFrom turns states n j]? = (states n).buf[k]?

/-- The core takes that byte in turn `n + j`: dropped alone (R141), or as part of one raw frame (R143). -/
def ByteTaken (turns : Nat → Turn) (states : Nat → State) (n k j : Nat) : Prop :=
  turns (n + j) = .core ∧ (states (n + j)).coreEnabled ∧
    (syncAction (states (n + j)).buf = .drop ∧ k = takenFrom turns states n j ∨
      ∃ l, syncAction (states (n + j)).buf = .extract l ∧ k < takenFrom turns states n j + l)

end Sys2Proof.Machine
end

