-- ==== Sys2Proof/Machine/Stream.lean ====
section
/-! DEFINITION. `Decode(s)` of R207: the synchronizer's actions run to Wait on a byte sequence, with the events they
raise and the deltas DISPATCH loads; and what a run's observation says of its bytes, deltas and events since the last
RESET. -/

namespace Sys2Proof.Machine

/-- What running the actions to Wait gives: events and deltas in order, the final `last`, the bytes left. -/
structure Drained where
  events : List Status
  deltas : List Delta
  last   : ChannelSet
  rest   : List Byte
  deriving DecidableEq, Repr

/-- One action in front of a drained run. -/
def consDrained (ev : Status) (ds : List Delta) (r : Drained) : Drained :=
  { r with events := ev :: r.events, deltas := ds ++ r.deltas }

/-- The event of one extracted frame, its deltas, and `last` after it, R203. -/
def frameResult (last : ChannelSet) (f : List Byte) : Status × List Delta × ChannelSet :=
  match candidateOf f with
  | none => (.malformedLen, [], last)
  | some cand =>
    match validate cand with
    | .crcFail => (.crcFail, [], last)
    | .typeIgnored => (.typeIgnored, [], last)
    | .rcBadLength => (.rcBadLength, [], last)
    | .rcDecoded cs => (.rcDecoded, changedDeltas last cs, updatedLast last cs)

/-- At most `k` actions on a buffer, stopping at Wait. -/
def drainSteps : Nat → ChannelSet → List Byte → Drained
  | 0, last, buf => ⟨[], [], last, buf⟩
  | k + 1, last, buf =>
    match syncAction buf with
    | .wait => ⟨[], [], last, buf⟩
    | .drop => consDrained .resync [] (drainSteps k last (buf.drop 1))
    | .extract n =>
      consDrained (frameResult last (buf.take n)).1 (frameResult last (buf.take n)).2.1
        (drainSteps k (frameResult last (buf.take n)).2.2 (buf.drop n))

/-- The actions run to Wait: an action removes at least one byte, so `|buf|` of them are enough (R148). -/
def drain (last : ChannelSet) (buf : List Byte) : Drained :=
  drainSteps buf.length last buf

/-- `Decode(s)` of R207 with the events beside it: from `last` all zeros. -/
def decodeStream (s : List Byte) : Drained :=
  drain zeroChannels s

/-- The part of an observation after its last Reset. -/
def sinceReset : List PortEvent → List PortEvent :=
  List.foldl (fun acc e => if e = .reset then [] else acc ++ [e]) []

/-- The byte of an In event. -/
def inputOf : PortEvent → Option Byte
  | .input b => some b
  | .output _ => none
  | .status _ => none
  | .reset => none

/-- The delta of an Out event. -/
def outputOf : PortEvent → Option Delta
  | .input _ => none
  | .output d => some d
  | .status _ => none
  | .reset => none

/-- The event of an Ev event. -/
def statusOf : PortEvent → Option Status
  | .input _ => none
  | .output _ => none
  | .status ev => some ev
  | .reset => none

/-- The bytes fed since the last RESET, in order. -/
def fedBytes (s : State) : List Byte :=
  (sinceReset s.obs).filterMap inputOf

/-- The deltas delivered since the last RESET, in order. -/
def deliveredDeltas (s : State) : List Delta :=
  (sinceReset s.obs).filterMap outputOf

/-- The status events since the last RESET, in order. -/
def raisedEvents (s : State) : List Status :=
  (sinceReset s.obs).filterMap statusOf

/-- A consumer's view after one delta, R259: `view[d.index] = d.value[10:0]`. -/
def viewStep (view : ChannelSet) (d : Delta) : ChannelSet :=
  view.set d.index.val (d.value.setWidth 11)

/-- A consumer's view after a list of deltas. -/
def viewAfter (view : ChannelSet) (ds : List Delta) : ChannelSet :=
  ds.foldl viewStep view

/-- The end of a run, R206: no delta pending and no action left. -/
def State.atEnd (s : State) : Prop :=
  s.pend = [] ∧ syncAction s.buf = .wait

end Sys2Proof.Machine
end

