-- ==== Sys2Proof/Safety.lean ====
section
/-! DEFINITION. What claims call a good state: the invariants of R30, of R207 and of R259, and when two states agree on
all the block itself holds. -/

namespace Sys2Proof.Safety

open Sys2Proof.Machine

/-- R30: the buffer within its capacity, at most 16 pending deltas with ascending indices, each with the value `last`
holds, below 2048. That `last[i]` is in 0..2047 is its type. -/
def Bounded (s : State) : Prop :=
  Memory.wf s.buf ∧ s.pend.length ≤ 16 ∧ s.pend.Pairwise (fun a b => a.index < b.index) ∧
    ∀ d ∈ s.pend, d.value = (s.last[d.index]).setWidth 16 ∧ d.value.toNat < 2048

/-- R207: whatever bytes `e` come next, running the actions on all bytes fed since the last RESET gives what was
delivered, what is pending and what the buffer still gives; and likewise for the events, `last` and the bytes left. -/
def FollowsStream (s : State) : Prop :=
  ∀ e : List Byte,
    (decodeStream (fedBytes s ++ e)).deltas =
        deliveredDeltas s ++ s.pend ++ (drain s.last (s.buf ++ e)).deltas ∧
      (decodeStream (fedBytes s ++ e)).events = raisedEvents s ++ (drain s.last (s.buf ++ e)).events ∧
      (decodeStream (fedBytes s ++ e)).last = (drain s.last (s.buf ++ e)).last ∧
      (decodeStream (fedBytes s ++ e)).rest = (drain s.last (s.buf ++ e)).rest

/-- R259: a consumer that starts from zeros at RESET and applies what was delivered and what is pending holds `last`. -/
def ViewFollows (s : State) : Prop :=
  viewAfter zeroChannels (deliveredDeltas s ++ s.pend) = s.last

/-- Two states that agree on `buf`, `last`, `pend` and the host's choices to come. -/
def SameBlock (s t : State) : Prop :=
  s.buf = t.buf ∧ s.last = t.last ∧ s.pend = t.pend ∧ s.agenda = t.agenda

end Sys2Proof.Safety
end

