-- ==== Sys2Proof/Certificates/Slice0/Obligations.lean ====
section
/-! DEFINITION. The statements for the provers, each from the rules its docstring names. -/

open Sys2Proof Sys2Proof.Machine Sys2Proof.Safety

/-! ## The CRC8 Engine -/

/-- R100 and R102: CRC8.STEP is R100's pseudocode with the mask after the byte, so masking at every shift gives the same;
no state is written, and R100's corner cases and examples. That the result stands in `unitOut` is the model's choice, log
entry 5. -/
def Obligations.Crc8StepRunsEightIterations : Prop :=
  (∀ (c b : Byte) (s : State), ∃ v : Byte,
      exec (.crc8Step c b) s = .next { s with unitOut := .crc v } ∧
        v = crc8Step c b ∧ v.toNat = crc8StepWide c.toNat b.toNat) ∧
    (∀ c : Byte, crc8Step c c = 0) ∧
    (∀ c b c' b' : Byte, c ^^^ b = c' ^^^ b' → crc8Step c b = crc8Step c' b') ∧
    crc8Step 0x00 0x16 = 0xD3 ∧ crc8Step 0x00 0x01 = 0xD5

/-- R104: the step is the printed table at `c ^ b`; the table is a permutation of the bytes, starts with 0, and fixes
0x00 and 0xB3 alone. -/
def Obligations.Crc8StepReadsTheTable : Prop :=
  (∀ c b : Byte, crcTable[(c ^^^ b).toNat]? = some (crc8Step c b)) ∧
    (∀ x : Byte, crcTable[x.toNat]? = some (crc8Step 0 x)) ∧
    crcTable.length = 256 ∧ crcTable.Nodup ∧ crcTable[0]? = some 0x00 ∧
    ∀ x : Byte, crcTable[x.toNat]? = some x ↔ x = 0x00 ∨ x = 0xB3

/-- R101: CRC8 is the fold of the step over the data, the seed for no data, with no final XOR; the check value. `unitOut` is
the model's choice, log entry 5. -/
def Obligations.Crc8FoldsTheSteps : Prop :=
  (∀ (seed : Byte) (data : List Byte) (s : State),
      exec (.crc8 seed data) s = .next { s with unitOut := .crc (data.foldl crc8Step seed) }) ∧
    (∀ seed : Byte, crc8 seed [] = seed) ∧
    crc8 0x00 [0x31, 0x32, 0x33, 0x34, 0x35, 0x36, 0x37, 0x38, 0x39] = 0xBC

/-- R103: compositionality, and the validator's use of it. -/
def Obligations.Crc8IsCompositional : Prop :=
  (∀ (s : Byte) (a b : List Byte), crc8 (crc8 s a) b = crc8 s (a ++ b)) ∧
    ∀ (t : Byte) (payload : List Byte), crc8 (crc8 0x00 [t]) payload = crc8 0x00 ([t] ++ payload)

/-- R105: (a) the residue, (b) linearity over GF(2). -/
def Obligations.Crc8ResidueAndLinearity : Prop :=
  (∀ (s : Byte) (m : List Byte), crc8 s (m ++ [crc8 s m]) = 0x00) ∧
    ∀ (s₁ s₂ : Byte) (d₁ d₂ : List Byte), d₁.length = d₂.length →
      crc8 (s₁ ^^^ s₂) (List.zipWith (· ^^^ ·) d₁ d₂) = crc8 s₁ d₁ ^^^ crc8 s₂ d₂

/-! ## The Channel Unpacker -/

/-- R120 to R122: 22 bytes give 16 channels whose bit k of channel i is stream bit 11 i + k, any other length gives no
ChannelSet, no state is written; and R120's corner cases. `unitOut` is the model's choice, log entry 5. -/
def Obligations.UnpackReadsTheBitStream : Prop :=
  (∀ (p : List Byte) (s : State), exec (.unpack p) s = .next { s with unitOut := .channels (unpack p) }) ∧
    (∀ p : List Byte, p.length ≠ 22 → unpack p = none) ∧
    (∀ p : List Byte, p.length = 22 → ∃ cs : ChannelSet, unpack p = some cs ∧
      ∀ (i : Fin 16) (k : Nat), k < 11 →
        cs[i].getLsbD k = (p.getD ((11 * i.val + k) / 8) 0).getLsbD ((11 * i.val + k) % 8)) ∧
    unpack (List.replicate 22 0x00) = some (Vector.replicate 16 0) ∧
    unpack (List.replicate 22 0xFF) = some (Vector.replicate 16 2047)

/-- R123 (and R47): the integer form and the byte formulas give the same sixteen values. -/
def Obligations.UnpackEquivalentForms : Prop :=
  ∀ p : List Byte, p.length = 22 → ∃ cs : ChannelSet, unpack p = some cs ∧
    (∀ i : Fin 16, cs[i].toNat = (payloadInt p >>> (11 * i.val)) &&& 0x7FF) ∧
    let g : Nat → Nat := fun j => (p.getD j 0).toNat
    cs[0].toNat = (g 0 ||| g 1 <<< 8) &&& 0x7FF ∧
    cs[1].toNat = (g 1 >>> 3 ||| g 2 <<< 5) &&& 0x7FF ∧
    cs[2].toNat = (g 2 >>> 6 ||| g 3 <<< 2 ||| g 4 <<< 10) &&& 0x7FF ∧
    cs[3].toNat = (g 4 >>> 1 ||| g 5 <<< 7) &&& 0x7FF ∧
    cs[4].toNat = (g 5 >>> 4 ||| g 6 <<< 4) &&& 0x7FF ∧
    cs[5].toNat = (g 6 >>> 7 ||| g 7 <<< 1 ||| g 8 <<< 9) &&& 0x7FF ∧
    cs[6].toNat = (g 8 >>> 2 ||| g 9 <<< 6) &&& 0x7FF ∧
    cs[7].toNat = (g 9 >>> 5 ||| g 10 <<< 3) &&& 0x7FF ∧
    cs[8].toNat = (g 11 ||| g 12 <<< 8) &&& 0x7FF ∧
    cs[9].toNat = (g 12 >>> 3 ||| g 13 <<< 5) &&& 0x7FF ∧
    cs[10].toNat = (g 13 >>> 6 ||| g 14 <<< 2 ||| g 15 <<< 10) &&& 0x7FF ∧
    cs[11].toNat = (g 15 >>> 1 ||| g 16 <<< 7) &&& 0x7FF ∧
    cs[12].toNat = (g 16 >>> 4 ||| g 17 <<< 4) &&& 0x7FF ∧
    cs[13].toNat = (g 17 >>> 7 ||| g 18 <<< 1 ||| g 19 <<< 9) &&& 0x7FF ∧
    cs[14].toNat = (g 19 >>> 2 ||| g 20 <<< 6) &&& 0x7FF ∧
    cs[15].toNat = (g 20 >>> 5 ||| g 21 <<< 3) &&& 0x7FF

/-- R124: PACK and UNPACK are inverse to each other on 22-byte payloads. -/
def Obligations.PackIsTheInverseOfUnpack : Prop :=
  (∀ cs : ChannelSet, (pack cs).length = 22 ∧ unpack (pack cs) = some cs) ∧
    ∀ (p : List Byte) (cs : ChannelSet), unpack p = some cs → pack cs = p

/-! ## The Frame Synchronizer -/

/-- R140: the checks of SyncAction in their order. -/
def Obligations.SyncActionFollowsTheChecks : Prop :=
  syncAction [] = .wait ∧
    (∀ (b : Byte) (rest : List Byte), b ≠ 0xC8 → syncAction (b :: rest) = .drop) ∧
    syncAction [0xC8] = .wait ∧
    ∀ (l : Byte) (rest : List Byte),
      ((0xC8 :: l :: rest).length < l.toNat + 2 → syncAction (0xC8 :: l :: rest) = .wait) ∧
        (¬ (0xC8 :: l :: rest).length < l.toNat + 2 →
          syncAction (0xC8 :: l :: rest) = .extract (l.toNat + 2))

/-- R69: `L + 2` does not wrap, at L = 254 and 255 as elsewhere. -/
def Obligations.LongLengthFieldsDoNotWrap : Prop :=
  (∀ body : List Byte, body.length < 254 → syncAction (0xC8 :: 254 :: body) = .wait) ∧
    (∀ body : List Byte, 254 ≤ body.length → syncAction (0xC8 :: 254 :: body) = .extract 256) ∧
    (∀ body : List Byte, body.length < 255 → syncAction (0xC8 :: 255 :: body) = .wait) ∧
    (∀ body : List Byte, 255 ≤ body.length → syncAction (0xC8 :: 255 :: body) = .extract 257) ∧
    ∀ (buf : List Byte) (n : Nat), syncAction buf = .extract n → 2 ≤ n ∧ n ≤ 257

/-- R142: when Wait holds, that nothing changes then, and that FEED and RESET can still move. That CORE, which is not
enabled then, answers the same state is the model's choice, log entry 3. -/
def Obligations.SyncWaitRetainsTheBuffer : Prop :=
  (∀ buf : List Byte, syncAction buf = .wait ↔
      buf = [] ∨ buf = [0xC8] ∨ ∃ l rest, buf = 0xC8 :: l :: rest ∧ buf.length < l.toNat + 2) ∧
    ∀ s : State, syncAction s.buf = .wait →
      decodeHead s.buf = .syncWait ∧ exec .syncWait s = .next s ∧ exec .core s = .next s ∧
        (∀ b : Byte, exec (.feed b) s =
          .next { s with buf := s.buf ++ [b], obs := s.obs ++ [.input b] }) ∧
        ∃ t, exec .reset s = .next t ∧ t.buf = []

/-- R141: one byte leaves the front, event 1 is raised, nothing else changes. The byte as an operand is the model's choice,
log entry 7. -/
def Obligations.SyncDropDropsOneByte : Prop :=
  ∀ (s : State) (b : Byte) (rest : List Byte), s.pend = [] → s.buf = b :: rest → b ≠ 0xC8 →
    exec (.syncDrop b) s = .next { s with buf := rest, obs := s.obs ++ [.status .resync] } ∧
      statusCode .resync = 1

/-- R143 with R62: a frame of L < 2 is consumed with event 2; any other frame is consumed with the outcome of its
candidate's validation, in the same step (log entry 6). -/
def Obligations.SyncExtractRunsTheWholeStep : Prop :=
  (∀ (s : State) (l : Byte) (body rest : List Byte), s.pend = [] → body.length = l.toNat → l.toNat < 2 →
      s.buf = 0xC8 :: l :: (body ++ rest) →
      exec (.syncExtract (l.toNat + 2)) s =
        .next { s with buf := rest, obs := s.obs ++ [.status .malformedLen] }) ∧
    ∀ (s : State) (l t c : Byte) (p rest : List Byte), s.pend = [] → p.length + 2 = l.toNat →
      s.buf = 0xC8 :: l :: t :: (p ++ c :: rest) →
      exec (.syncExtract (l.toNat + 2)) s = exec (decodeCandidate ⟨t, p, c⟩) s ∧
        ∃ u, exec (.syncExtract (l.toNat + 2)) s = .next u ∧ u.buf = rest ∧
          u.obs = s.obs ++ [.status (verdictStatus (validate ⟨t, p, c⟩))]

/-- R144: the two or three bytes of a frame with length field 0 or 1 leave the front, event 2 is raised, nothing else
changes. That the operation takes its own bytes is log entry 6. -/
def Obligations.FrameMalformedConsumesTheFrame : Prop :=
  ∀ (s : State) (l : Byte) (body rest : List Byte), s.pend = [] → body.length = l.toNat → l.toNat < 2 →
    s.buf = 0xC8 :: l :: (body ++ rest) →
    exec (.frameMalformed (0xC8 :: l :: body)) s =
      .next { s with buf := rest, obs := s.obs ++ [.status .malformedLen] } ∧
      statusCode .malformedLen = 2

/-- R146: a buffer of at least 257 bytes has an action, so with no delta pending a full buffer has a CORE step, and that
step makes room. -/
def Obligations.FullBufferProgresses : Prop :=
  (∀ buf : List Byte, 257 ≤ buf.length → syncAction buf ≠ .wait) ∧ 257 ≤ Config.bufCap ∧
    ∀ s : State, s.buf.length = Config.bufCap → s.pend = [] →
      ∃ t, exec .core s = .next t ∧ t.buf.length < Config.bufCap

/-- R147: bytes appended to a buffer that is not waiting change neither its action nor what the action leaves; so
draining in two chunks is draining at once. -/
def Obligations.ChunkingIsUnobservable : Prop :=
  (∀ b e : List Byte, syncAction b ≠ .wait → syncAction (b ++ e) = syncAction b) ∧
    (∀ b e : List Byte, syncAction b = .drop → (b ++ e).drop 1 = b.drop 1 ++ e) ∧
    (∀ (b e : List Byte) (n : Nat), syncAction b = .extract n →
      (b ++ e).drop n = b.drop n ++ e ∧ (b ++ e).take n = b.take n) ∧
    ∀ (last : ChannelSet) (b e : List Byte),
      (drain last (b ++ e)).events =
          (drain last b).events ++ (drain (drain last b).last ((drain last b).rest ++ e)).events ∧
        (drain last (b ++ e)).deltas =
          (drain last b).deltas ++ (drain (drain last b).last ((drain last b).rest ++ e)).deltas ∧
        (drain last (b ++ e)).last = (drain (drain last b).last ((drain last b).rest ++ e)).last ∧
        (drain last (b ++ e)).rest = (drain (drain last b).last ((drain last b).rest ++ e)).rest

/-- R148: a Drop removes one byte and an Extract at least two, so at most `|buf|` actions lead to Wait; and the Wait is one
of its three forms. -/
def Obligations.DrainIsBounded : Prop :=
  ∀ (last : ChannelSet) (buf : List Byte),
    (drain last buf).events.length ≤ buf.length ∧
      (drain last buf).rest.length + (drain last buf).events.length +
        ((drain last buf).events.filter fun ev => ev ≠ .resync).length ≤ buf.length ∧
      syncAction (drain last buf).rest = .wait ∧
      ((drain last buf).rest = [] ∨ (drain last buf).rest = [0xC8] ∨
        ∃ l rest, (drain last buf).rest = 0xC8 :: l :: rest ∧ rest.length < l.toNat)

/-! ## The Frame Validator -/

/-- R160: the CRC, then the type, then the payload length, and the ChannelSet with RC_DECODED alone; no state is
written. `unitOut` is the model's choice, log entry 5. -/
def Obligations.ValidateChecksInOrder : Prop :=
  ∀ (t c : Byte) (p : List Byte) (s : State), ∃ (code : Status) (r : Option ChannelSet),
    exec (.validate ⟨t, p, c⟩) s = .next { s with unitOut := .verdict code r } ∧
      (crc8 (crc8 0x00 [t]) p ≠ c → code = .crcFail ∧ r = none) ∧
      (crc8 (crc8 0x00 [t]) p = c → t ≠ 0x16 → code = .typeIgnored ∧ r = none) ∧
      (crc8 (crc8 0x00 [t]) p = c → t = 0x16 → p.length ≠ 22 → code = .rcBadLength ∧ r = none) ∧
      (crc8 (crc8 0x00 [t]) p = c → t = 0x16 → p.length = 22 →
        code = .rcDecoded ∧ r = unpack p ∧ r.isSome)

/-- R161: event 3, the frame consumed, `last` and `pend` unchanged. That the operation takes the frame's bytes is log
entry 6. -/
def Obligations.ValCrcFailDiscards : Prop :=
  ∀ (s : State) (cand : Candidate) (rest : List Byte), s.pend = [] → cand.payload.length ≤ 253 →
    s.buf = rawFrame cand ++ rest → crc8 (crc8 0x00 [cand.frameType]) cand.payload ≠ cand.crc →
    exec (.valCrcFail cand) s = .next { s with buf := rest, obs := s.obs ++ [.status .crcFail] } ∧
      statusCode .crcFail = 3

/-- R162: event 4, the frame consumed, `last` and `pend` unchanged, for every type other than 0x16 (log entry 6). -/
def Obligations.ValIgnoreSkipsOtherTypes : Prop :=
  ∀ (s : State) (cand : Candidate) (rest : List Byte), s.pend = [] → cand.payload.length ≤ 253 →
    s.buf = rawFrame cand ++ rest → crc8 (crc8 0x00 [cand.frameType]) cand.payload = cand.crc →
    cand.frameType ≠ 0x16 →
    exec (.valIgnore cand) s = .next { s with buf := rest, obs := s.obs ++ [.status .typeIgnored] } ∧
      statusCode .typeIgnored = 4

/-- R163: event 5, the frame consumed, `last` and `pend` unchanged, for every payload length other than 22
(log entry 6). -/
def Obligations.ValRcBadLenDiscards : Prop :=
  ∀ (s : State) (cand : Candidate) (rest : List Byte), s.pend = [] → cand.payload.length ≤ 253 →
    s.buf = rawFrame cand ++ rest → crc8 (crc8 0x00 [cand.frameType]) cand.payload = cand.crc →
    cand.frameType = 0x16 → cand.payload.length ≠ 22 →
    exec (.valRcBadLen cand) s = .next { s with buf := rest, obs := s.obs ++ [.status .rcBadLength] } ∧
      statusCode .rcBadLength = 5

/-- R164 with R180: the ChannelSet becomes `last`, its changes become `pend` in ascending index, event 6 is raised
(log entry 6). -/
def Obligations.ValRcDecodesTheFrame : Prop :=
  ∀ (s : State) (cand : Candidate) (rest : List Byte), s.pend = [] → cand.payload.length = 22 →
    s.buf = rawFrame cand ++ rest → crc8 (crc8 0x00 [cand.frameType]) cand.payload = cand.crc →
    cand.frameType = 0x16 →
    ∃ cs : ChannelSet, unpack cand.payload = some cs ∧
      exec (.valRc cand) s =
        .next { s with
          buf := rest
          last := cs
          pend := ((List.finRange 16).filter fun i => cs[i] ≠ s.last[i]).map fun i => ⟨i, cs[i].setWidth 16⟩
          obs := s.obs ++ [.status .rcDecoded] } ∧
      statusCode .rcDecoded = 6

/-- R165: the residue form of the check. -/
def Obligations.ResidueFormOfTheCheck : Prop :=
  ∀ cand : Candidate,
    crc8 (crc8 0x00 [cand.frameType]) cand.payload = cand.crc ↔
      crc8 0x00 ([cand.frameType] ++ cand.payload ++ [cand.crc]) = 0x00

/-! ## The Change-Filtered Dispatcher -/

/-- R180 with R181 and R182: the changed channels become `pend` in ascending index, zero-extended to 16 bits, and `last`
becomes the new set, in one step. -/
def Obligations.DispatchLoadsTheChanges : Prop :=
  ∀ (s : State) (new : ChannelSet), s.pend = [] →
    exec (.dispatch new) s =
      .next { s with
        last := new
        pend := ((List.finRange 16).filter fun i => new[i] ≠ s.last[i]).map fun i => ⟨i, new[i].setWidth 16⟩ }

/-- R183: how many deltas there are, their order, that each is a change, that a repeated set gives none, and that a
change of channel 3 alone gives one. -/
def Obligations.DispatchEmitsExactlyTheChanges : Prop :=
  (∀ last new : ChannelSet,
      (changedDeltas last new).length ≤ 16 ∧
        (changedDeltas last new).Pairwise (fun a b => a.index < b.index) ∧
        (∀ d ∈ changedDeltas last new, d.value ≠ (last[d.index]).setWidth 16) ∧
        changedDeltas (updatedLast last new) new = [] ∧
        (changedDeltas last new).length = (List.finRange 16).countP fun i => new[i] ≠ last[i]) ∧
    ∀ (last : ChannelSet) (v : Chan), v ≠ last[3] →
      changedDeltas last (last.set 3 v) = [⟨3, v.setWidth 16⟩]

/-- R184: from the reset state a decoded set gives one delta for every channel that is not 0, and none for one that is. -/
def Obligations.FirstFrameEmitsTheNonZero : Prop :=
  ∀ new : ChannelSet, ∃ t, exec (.dispatch new) State.reset = .next t ∧
    ∀ i : Fin 16, (new[i] ≠ 0 → (t.pend.filter fun d => d.index = i) = [⟨i, new[i].setWidth 16⟩]) ∧
      (new[i] = 0 → (t.pend.filter fun d => d.index = i) = [])

/-- R185: the oldest pending delta goes to the consumer, `last` and the buffer unchanged. -/
def Obligations.DeliverHandsOverTheOldest : Prop :=
  ∀ (s : State) (d : Delta) (rest : List Delta), s.pend = d :: rest →
    exec (.deliver d) s = .next { s with pend := rest, obs := s.obs ++ [.output d] }

/-! ## FEED, CORE, RESET -/

/-- R202: a byte is appended while there is room, whatever else holds. -/
def Obligations.FeedAppendsOneByte : Prop :=
  ∀ (s : State) (b : Byte), s.buf.length < Config.bufCap →
    exec (.feed b) s = .next { s with buf := s.buf ++ [b], obs := s.obs ++ [.input b] }

/-- R43: at capacity the input port is not ready. That FEED, which is not enabled then, answers the same state is the
model's choice, log entry 3. -/
def Obligations.FullBufferHoldsTheProducer : Prop :=
  ∀ (s : State) (b : Byte), s.buf.length = Config.bufCap →
    inReady false s = false ∧ exec (.feed b) s = .next s

/-- R203 with R66: CORE is the operation the state selects. That it answers the same state while deltas are pending is the
model's choice, log entry 3. -/
def Obligations.CoreRunsTheSelectedOperation : Prop :=
  ∀ s : State, (s.pend = [] → exec .core s = exec (decodeHead s.buf) s) ∧
    (s.pend ≠ [] → exec .core s = .next s)

/-- R204 with R223: when CORE is enabled, it consumes bytes and raises exactly one event, RESYNC for a Drop alone. That
it answers the same state otherwise is the model's choice, log entry 3. -/
def Obligations.CoreRaisesOneEvent : Prop :=
  ∀ s : State,
    (s.pend = [] → syncAction s.buf ≠ .wait →
      ∃ t ev, exec .core s = .next t ∧ t.obs = s.obs ++ [.status ev] ∧
        (ev = .resync ↔ syncAction s.buf = .drop) ∧ t.buf.length < s.buf.length) ∧
      (s.pend ≠ [] ∨ syncAction s.buf = .wait → exec .core s = .next s)

/-- R224 with R66: the first condition that holds decides the operation. -/
def Obligations.PriorityOfConditions : Prop :=
  (∀ (b : Byte) (rest : List Byte), b ≠ 0xC8 → decodeHead (b :: rest) = .syncDrop b) ∧
    (∀ buf : List Byte, buf = [] ∨ buf = [0xC8] → decodeHead buf = .syncWait) ∧
    (∀ (l : Byte) (body : List Byte), body.length < l.toNat → decodeHead (0xC8 :: l :: body) = .syncWait) ∧
    (∀ (l : Byte) (body rest : List Byte), body.length = l.toNat → l.toNat < 2 →
      decodeHead (0xC8 :: l :: (body ++ rest)) = .frameMalformed (0xC8 :: l :: body)) ∧
    ∀ (l t c : Byte) (p rest : List Byte), p.length + 2 = l.toNat →
      (crc8 (crc8 0x00 [t]) p ≠ c →
        decodeHead (0xC8 :: l :: t :: (p ++ c :: rest)) = .valCrcFail ⟨t, p, c⟩) ∧
      (crc8 (crc8 0x00 [t]) p = c → t ≠ 0x16 →
        decodeHead (0xC8 :: l :: t :: (p ++ c :: rest)) = .valIgnore ⟨t, p, c⟩) ∧
      (crc8 (crc8 0x00 [t]) p = c → t = 0x16 → l ≠ 24 →
        decodeHead (0xC8 :: l :: t :: (p ++ c :: rest)) = .valRcBadLen ⟨t, p, c⟩) ∧
      (crc8 (crc8 0x00 [t]) p = c → t = 0x16 → l = 24 →
        decodeHead (0xC8 :: l :: t :: (p ++ c :: rest)) = .valRc ⟨t, p, c⟩)

/-- R250: RESET is enabled in every state and leaves the reset values, no status event is raised, and a second RESET
leaves the same. -/
def Obligations.ResetRestoresTheInitialState : Prop :=
  ∀ s : State, ∃ t, exec .reset s = .next t ∧ t.buf = [] ∧ (∀ i : Fin 16, t.last[i] = 0) ∧ t.pend = [] ∧
    t.obs.filterMap statusOf = s.obs.filterMap statusOf ∧
    ∃ u, exec .reset t = .next u ∧ u.buf = t.buf ∧ u.last = t.last ∧ u.pend = t.pend

/-- R31: the values after RESET. R254 with R201: FEED is enabled then, and CORE and DELIVER are not. -/
def Obligations.ResetStateValues : Prop :=
  State.reset.buf = [] ∧ (∀ i : Fin 16, State.reset.last[i] = 0) ∧ State.reset.pend = [] ∧
    inReady false State.reset = true ∧ outValid false State.reset = false ∧
    syncAction State.reset.buf = .wait

/-! ## Ports and status events -/

/-- R201: the ports' values, and that nothing is ready or valid while `rst` is held. That a port the rule calls don't-care
has no value is the model's choice, log entry 15. -/
def Obligations.PortsFollowTheState : Prop :=
  ∀ (rst : Bool) (s : State),
    (inReady rst s = true ↔ rst = false ∧ s.buf.length < Config.bufCap) ∧
      (outValid rst s = true ↔ rst = false ∧ s.pend ≠ []) ∧
      (∀ d rest, rst = false → s.pend = d :: rest →
        outIndex rst s = some (BitVec.ofNat 4 d.index.val) ∧ outValue rst s = some d.value) ∧
      (outValid rst s = false → outIndex rst s = none ∧ outValue rst s = none)

/-- R220: the codes 1 to 6, each of one event; 0 and 7 of none. -/
def Obligations.StatusCodesAreOneToSix : Prop :=
  (∀ ev : Status, statusOfCode (statusCode ev) = some ev ∧ statusCode ev ≠ 0 ∧ statusCode ev ≠ 7) ∧
    (∀ c : BitVec 3, statusOfCode c = none ↔ c = 0 ∨ c = 7) ∧
    statusCode .resync = 1 ∧ statusCode .malformedLen = 2 ∧ statusCode .crcFail = 3 ∧
    statusCode .typeIgnored = 4 ∧ statusCode .rcBadLength = 5 ∧ statusCode .rcDecoded = 6

/-- R221: what was observed so far, and what stands on a combinational unit's output, changes nothing a step does to the
block, nor what the step reports. `obs` and `unitOut` are the model's choice, log entries 4 and 5. -/
def Obligations.ObservationDecidesNothing : Prop :=
  ∀ s t : State, SameBlock s t →
    match step s, step t with
    | .next s', .next t' =>
      SameBlock s' t' ∧ ∃ es : List PortEvent, s'.obs = s.obs ++ es ∧ t'.obs = t.obs ++ es
    | .refused a, .refused b => a = b
    | .fault _, _ => False
    | _, _ => False

/-! ## Steps -/

/-- R205 as the model's step reads it: whose turn it is decides the operation, a head word is decoded from the buffer,
and a step adds nothing around the operation but using the choice up. The agenda, the turns and `withFetchWord` are the
model's choice, log entries 1 to 3, 5 and 12. -/
def Obligations.StepRunsTheDecodedOperation : Prop :=
  ∀ s : State,
    (s.turn = .core → s.pend = [] → ∀ i, decode .head s.buf = .ok i → wellFormed i = true →
      step s = exec i s.advance) ∧
    (s.turn = .core → s.pend ≠ [] → step s = .next s.advance) ∧
    (∀ b, s.turn = .offer b → decode .input [b] = .ok (.feed b) ∧ step s = exec (.feed b) s.advance) ∧
    (∀ d rest, s.turn = .accept → s.pend = d :: rest → step s = exec (.deliver d) s.advance) ∧
    (s.turn = .accept → s.pend = [] → step s = .next s.advance) ∧
    (s.turn = .reset → step s = exec .reset s.advance) ∧
    (∀ u w i, s.turn = .evaluate u w → decode (unitFormat u) w = .ok i → step s = exec i s.advance) ∧
    (∀ u w e, s.turn = .evaluate u w → decode (unitFormat u) w = .error e →
      step s = .refused (.undecodable e)) ∧
    ∀ w i, decodeTableWord 24 w = some i →
      step (s.withFetchWord 24 w) = exec i { s with buf := paddedFrame 24 w, pend := [] }

/-- R205: a step is a FEED, a CORE, a DELIVER or a RESET, each when it is enabled, or it leaves the block and its ports
as they are; the last case is the model's choice, log entries 3 and 5. -/
def Obligations.EveryStepIsOneOfFour : Prop :=
  ∀ s t : State, step s = .next t →
    (∃ b, s.turn = .offer b ∧ s.buf.length < Config.bufCap ∧
      t = { s.advance with buf := s.buf ++ [b], obs := s.obs ++ [.input b] }) ∨
    (s.turn = .core ∧ s.pend = [] ∧ syncAction s.buf ≠ .wait ∧ exec .core s.advance = .next t) ∨
    (∃ d rest, s.turn = .accept ∧ s.pend = d :: rest ∧
      t = { s.advance with pend := rest, obs := s.obs ++ [.output d] }) ∨
    (s.turn = .reset ∧
      t = { s.advance with buf := [], last := Vector.replicate 16 0, pend := [], obs := s.obs ++ [.reset] }) ∨
    (t.buf = s.buf ∧ t.last = s.last ∧ t.pend = s.pend ∧ t.obs = s.obs ∧ t.agenda = s.agenda.tail)

/-- R225: no condition traps. Every operation answers a next state on every state; a step never faults, and refuses
only a word that a bench offered to a combinational unit, which is the model's choice, log entries 5 and 20. -/
def Obligations.NothingTraps : Prop :=
  (∀ (i : Instr) (s : State), ∃ t, exec i s = .next t) ∧
    ∀ s : State, (∃ t, step s = .next t) ∨
      ∃ u w e, s.turn = .evaluate u w ∧ step s = .refused (.undecodable e)

/-! ## Encoding -/

/-- A few words written out from the table's match values and the frame format: what the decoder reads from them.
The formats, the padding and the bytes of DELIVER's word are the model's choice, log entries 10 to 12. -/
def Obligations.TableWordsDecodeAsPrinted : Prop :=
  decodeTableWord 24 0xC80000 = some (.frameMalformed [0xC8, 0x00]) ∧
    decodeTableWord 24 0x000000 = some (.syncDrop 0x00) ∧
    decodeTableWord 16 0x0016 = some (.crc8Step 0x00 0x16) ∧
    decodeTableWord 8 0x18 = some (.feed 0x18) ∧
    decodeTableWord 1 1 = some .reset ∧
    decode .head [0xC8, 0x02, 0x16, 0xD3] = .ok (.valRcBadLen ⟨0x16, [], 0xD3⟩) ∧
    decode .head [0xC8, 0x02, 0x16, 0x00] = .ok (.valCrcFail ⟨0x16, [], 0x00⟩) ∧
    decode .head [0xC8, 0x02, 0x14, 0xAC] = .ok (.valIgnore ⟨0x14, [], 0xAC⟩) ∧
    decode .output [0x03, 0x05, 0xDC] = .ok (.deliver ⟨3, 1500⟩)

/-- R60 to R66 and R181: decoding the word of a well-formed operation gives it back, with every operand.
The formats and DELIVER's bytes are the model's choice, log entries 10 and 11. -/
def Obligations.DecodeOfEncodeIsTheOperation : Prop :=
  ∀ i : Instr, wellFormed i = true → decode (formatOf i) (encode i) = .ok i

/-- What the decoder gives is well-formed, in every format; the formats are the model's choice, log entry 10. -/
def Obligations.DecodedOperationsAreWellFormed : Prop :=
  ∀ (fmt : Format) (bytes : List Byte) (i : Instr), decode fmt bytes = .ok i → wellFormed i = true

/-- R66: the operation a buffer selects carries exactly the bytes at its head, and bytes after it do not matter. -/
def Obligations.HeadWordIsAPrefixOfTheBuffer : Prop :=
  (∀ buf : List Byte, ∃ rest, buf = encode (decodeHead buf) ++ rest) ∧
    ∀ (i : Instr) (rest : List Byte), wellFormed i = true → formatOf i = .head → i ≠ .syncWait →
      decode .head (encode i ++ rest) = .ok i

/-! ## Invariants -/

/-- R30: every operation, and every step, keeps the bounds of `buf` and `pend` and the agreement of `pend` with `last`. -/
def Obligations.StepKeepsBounded : Prop :=
  (∀ (i : Instr) (s t : State), Bounded s → exec i s = .next t → Bounded t) ∧
    ∀ s t : State, Bounded s → step s = .next t → Bounded t

/-- R207: every step keeps the agreement of what was observed with `Decode(s)` of the bytes fed. -/
def Obligations.StepKeepsFollowsStream : Prop :=
  ∀ s t : State, FollowsStream s → step s = .next t → FollowsStream t

/-- R259: every step keeps the agreement of a consumer's view with `last`. -/
def Obligations.StepKeepsViewFollows : Prop :=
  ∀ s t : State, ViewFollows s → step s = .next t → ViewFollows t

/-- R31 with R30, R207 and R259: the reset state meets the three invariants, whatever the host chooses to do. -/
def Obligations.ResetMeetsTheInvariants : Prop :=
  ∀ choices : List Turn,
    Bounded { State.reset with agenda := choices } ∧ FollowsStream { State.reset with agenda := choices } ∧
      ViewFollows { State.reset with agenda := choices }

/-- R207 over runs: whatever the host does, the deltas delivered since the last RESET are a prefix of `Decode(s)` of the
bytes fed, the events likewise; at the end of a run they are equal. -/
def Obligations.OutputIsAFunctionOfTheInput : Prop :=
  ∀ (choices : List Turn) (n : Nat) (t : State),
    Sys2Proof.core.run n { State.reset with agenda := choices } = .next t →
      deliveredDeltas t <+: (decodeStream (fedBytes t)).deltas ∧
        raisedEvents t <+: (decodeStream (fedBytes t)).events ∧
        (t.atEnd → deliveredDeltas t = (decodeStream (fedBytes t)).deltas ∧
          raisedEvents t = (decodeStream (fedBytes t)).events ∧
          t.last = (decodeStream (fedBytes t)).last ∧ t.buf = (decodeStream (fedBytes t)).rest)

/-- R259 over runs: a consumer that starts from zeros at RESET holds `last` whenever no delta is pending. -/
def Obligations.ConsumerViewEqualsLast : Prop :=
  ∀ (choices : List Turn) (n : Nat) (t : State),
    Sys2Proof.core.run n { State.reset with agenda := choices } = .next t → t.pend = [] →
      viewAfter (Vector.replicate 16 0) (deliveredDeltas t) = t.last

/-! ## Progress and backpressure -/

/-- From every state, turns of the core and of a ready consumer alone reach the end of a run (R206), no more of them than
the pending deltas and seventeen for each buffered byte. This bounded form assumes no fairness; R262 itself is
stated by the two fair-run statements below. -/
def Obligations.CoreAndConsumerReachTheEnd : Prop :=
  ∀ s : State, ∃ turns : List Turn, (∀ x ∈ turns, x = .core ∨ x = .accept) ∧
    turns.length ≤ s.pend.length + 17 * s.buf.length ∧
    ∃ t, Sys2Proof.core.run turns.length { s with agenda := turns } = .next t ∧ t.atEnd

/-- R262: weak fairness can be met whatever the producer does: from every state, with any bytes offered between the turns
of the core and of an always ready consumer, there is a fair run. -/
def Obligations.FairRunsExist : Prop :=
  ∀ (s : State) (offers : Nat → Byte), ∃ (turns : Nat → Turn) (states : Nat → State),
    states 0 = s ∧ FairRun turns (fun _ => true) states ∧ (∀ k, turns (3 * k) = .offer (offers k)) ∧
      ∀ n, turns n ≠ .reset

/-- R262: in every fair run, whatever turns stand between, every pending delta is eventually delivered if the consumer
keeps accepting, unless a RESET comes first (R251). That it is this delta and no other shows in the deltas behind it. The
form of a run without end is the model's choice, log entry 25. -/
def Obligations.FairRunsDeliverEveryDelta : Prop :=
  ∀ (turns : Nat → Turn) (ready : Nat → Bool) (states : Nat → State) (n : Nat) (front back : List Delta) (d : Delta),
    FairRun turns ready states → KeepsAccepting ready states n → (states n).pend = front ++ d :: back →
    ∃ j before, (∀ i, i < j → turns (n + i) ≠ .reset) ∧ (states (n + j)).pend = before ++ d :: back ∧
      (turns (n + j) = .reset ∨
        (turns (n + j) = .accept ∧ before = [] ∧ (states (n + j + 1)).pend = back ∧
          (states (n + j + 1)).obs = (states (n + j)).obs ++ [.output d]))

/-- R262 with R52: in every fair run, whatever turns stand between, each byte of the buffer is eventually dropped alone or
taken as part of one raw frame, if the consumer keeps accepting (its duty, R208 and R257), unless a RESET comes first
(R251) or the byte belongs to a trailing incomplete frame, which waits for ever with nothing pending. The form of a run
without end is the model's choice, log entry 25. -/
def Obligations.FairRunsConsumeEveryByte : Prop :=
  ∀ (turns : Nat → Turn) (ready : Nat → Bool) (states : Nat → State) (n k : Nat),
    FairRun turns ready states → KeepsAccepting ready states n → k < (states n).buf.length →
    (∃ j, (∀ i, i < j → turns (n + i) ≠ .reset) ∧ ByteStands turns states n k j ∧
      (turns (n + j) = .reset ∨ ByteTaken turns states n k j)) ∨
    ((∀ j, turns (n + j) ≠ .reset ∧ ByteStands turns states n k j) ∧
      ∃ i, ∀ j, i ≤ j → (states (n + j)).atEnd)

/-- R257: while the consumer takes nothing and a delta is pending, offers and turns of the core change only the buffer,
which takes the offered bytes in order until it is full. -/
def Obligations.BackpressureLosesNothing : Prop :=
  ∀ (s : State) (turns : List Turn) (bytes : List Byte), s.pend ≠ [] → s.buf.length ≤ Config.bufCap →
    (∀ x ∈ turns, x = .core ∨ ∃ b, x = .offer b) →
    bytes = turns.filterMap (fun | .offer b => some b | _ => none) →
    ∃ t, Sys2Proof.core.run turns.length { s with agenda := turns } = .next t ∧
      t.pend = s.pend ∧ t.last = s.last ∧
      t.buf = s.buf ++ bytes.take (Config.bufCap - s.buf.length)

/-! ## Frames -/

/-- R100, R101, R120, R160: the combinational functions write nothing of the block, nor the host's choices and
the observation, which are the model's (log entries 1 and 4). -/
def Obligations.CombinationalFunctionsWriteNoState : Prop :=
  ∀ (i : Instr) (s t : State),
    formatOf i = .crc8Step ∨ formatOf i = .crc8 ∨ formatOf i = .unpack ∨ formatOf i = .validate →
    exec i s = .next t →
      t.buf = s.buf ∧ t.last = s.last ∧ t.pend = s.pend ∧ t.agenda = s.agenda ∧ t.obs = s.obs

/-- R141, R142, R144, R161, R162, R163: SYNC.WAIT, SYNC.DROP, FRAME.MALFORMED, VAL.CRC_FAIL, VAL.IGNORE and VAL.RC_BADLEN
leave `last` and `pend` alone; the buffer loses the operation's own bytes from its front, or nothing where the state does
not select it, and every byte behind them keeps its place in the order. Taking its own bytes, and
holding where it is not selected, is the model's choice (log entries 3, 6, 7). -/
def Obligations.DiscardingOperationsKeepLastAndPend : Prop :=
  ∀ (i : Instr) (s t : State),
    i = .syncWait ∨ (∃ b, i = .syncDrop b) ∨ (∃ f, i = .frameMalformed f) ∨ (∃ c, i = .valCrcFail c) ∨
      (∃ c, i = .valIgnore c) ∨ (∃ c, i = .valRcBadLen c) →
    exec i s = .next t →
      t.last = s.last ∧ t.pend = s.pend ∧ t.agenda = s.agenda ∧ t.unitOut = s.unitOut ∧
        (∀ k : Nat, t.buf[k]? = s.buf[k + if selects s i then (encode i).length else 0]?) ∧
        (t.obs = s.obs ∨ ∃ ev, t.obs = s.obs ++ [.status ev])

/-- R143, R164, R203: SYNC.EXTRACT, VAL.RC and CORE change the host's choices and a combinational output never; `last`
and `pend` change with the event RC_DECODED alone; the buffer loses bytes from its front only, as many as SyncAction
takes, or none where the operation is not enabled, which is the model's choice (log entries 3, 6). -/
def Obligations.ExtractingOperationsFrame : Prop :=
  ∀ (i : Instr) (s t : State),
    i = .core ∨ (∃ n, i = .syncExtract n) ∨ (∃ c, i = .valRc c) →
    exec i s = .next t →
      t.agenda = s.agenda ∧ t.unitOut = s.unitOut ∧
        (t = s ∨ ∃ ev n, t.obs = s.obs ++ [.status ev] ∧
          (syncAction s.buf = .extract n ∨ (syncAction s.buf = .drop ∧ n = 1)) ∧
          (∀ k : Nat, t.buf[k]? = s.buf[k + n]?) ∧
          (ev ≠ .rcDecoded → t.last = s.last ∧ t.pend = s.pend))

/-- R180, R185, R202, R250: what DISPATCH, DELIVER, FEED and RESET leave unchanged, taken or not; holding where not
enabled, and what RESET leaves of the model's own fields, are the model's choice (log entries 3, 18, 24). -/
def Obligations.PortOperationsFrame : Prop :=
  (∀ (new : ChannelSet) (s t : State), exec (.dispatch new) s = .next t →
      t.buf = s.buf ∧ t.agenda = s.agenda ∧ t.obs = s.obs ∧ t.unitOut = s.unitOut) ∧
    (∀ (d : Delta) (s t : State), exec (.deliver d) s = .next t →
      t.buf = s.buf ∧ t.last = s.last ∧ t.agenda = s.agenda ∧ t.unitOut = s.unitOut ∧
        (s.pend.head? ≠ some d → t = s)) ∧
    (∀ (b : Byte) (s t : State), exec (.feed b) s = .next t →
      t.last = s.last ∧ t.pend = s.pend ∧ t.agenda = s.agenda ∧ t.unitOut = s.unitOut ∧
        (∀ k : Nat, k ≠ s.buf.length → t.buf[k]? = s.buf[k]?)) ∧
    ∀ s t : State, exec .reset s = .next t → t.agenda = s.agenda ∧ t.unitOut = s.unitOut
end

