-- ==== Sys2Proof/Laws/Fairness.lean ====
section
/-! SUPPORT. The small lemmas of runs without end: how many bytes a turn takes, and what every step keeps. -/

namespace Sys2Proof.Machine

@[simp] theorem takenFrom_zero (turns : Nat → Turn) (states : Nat → State) (n : Nat) :
    takenFrom turns states n 0 = 0 := rfl

@[simp] theorem takenFrom_succ (turns : Nat → Turn) (states : Nat → State) (n j : Nat) :
    takenFrom turns states n (j + 1) = takenFrom turns states n j + takenAt turns states (n + j) := rfl

theorem takenAt_core {turns : Nat → Turn} {states : Nat → State} {m : Nat} (h : turns m = .core) :
    takenAt turns states m = (states m).buf.length - (states (m + 1)).buf.length := if_pos h

theorem takenAt_of_ne {turns : Nat → Turn} {states : Nat → State} {m : Nat} (h : turns m ≠ .core) :
    takenAt turns states m = 0 := if_neg h

theorem takenFrom_mono (turns : Nat → Turn) (states : Nat → State) (n : Nat) {i j : Nat} (h : i ≤ j) :
    takenFrom turns states n i ≤ takenFrom turns states n j := by
  induction h with
  | refl => exact Nat.le_refl _
  | step _ ih => exact Nat.le_trans ih (Nat.le_add_right _ _)

theorem byteStands_zero (turns : Nat → Turn) (states : Nat → State) (n k : Nat) :
    ByteStands turns states n k 0 := ⟨Nat.zero_le k, rfl⟩

/-- What every step keeps, a run without end keeps, for what does not rest on the host's choices. -/
theorem UnendingRun.keeps {turns : Nat → Turn} {ready : Nat → Bool} {states : Nat → State} {P : State → Prop}
    (h : UnendingRun turns ready states) (hP : ∀ s choices, P s → P { s with agenda := choices })
    (hstep : ∀ s t : State, P s → step s = .next t → P t) {n : Nat} (hn : P (states n)) (j : Nat) :
    P (states (n + j)) := by
  induction j with
  | zero => exact hn
  | succ j ih => exact hstep _ _ (hP _ [turns (n + j)] ih) (h.1 (n + j))

end Sys2Proof.Machine
end

