-- ==== Sys2Proof/Laws/State.lean ====
section
/-! SUPPORT. One lemma for each field under each named update of the state, so that no later proof unfolds an update. -/

namespace Sys2Proof.Machine.State

@[simp] theorem record_buf (e : PortEvent) (s : State) : (s.record e).buf = s.buf := rfl
@[simp] theorem record_last (e : PortEvent) (s : State) : (s.record e).last = s.last := rfl
@[simp] theorem record_pend (e : PortEvent) (s : State) : (s.record e).pend = s.pend := rfl
@[simp] theorem record_agenda (e : PortEvent) (s : State) : (s.record e).agenda = s.agenda := rfl
@[simp] theorem record_obs (e : PortEvent) (s : State) : (s.record e).obs = s.obs ++ [e] := rfl
@[simp] theorem record_unitOut (e : PortEvent) (s : State) : (s.record e).unitOut = s.unitOut := rfl

@[simp] theorem raise_buf (ev : Status) (s : State) : (s.raise ev).buf = s.buf := rfl
@[simp] theorem raise_last (ev : Status) (s : State) : (s.raise ev).last = s.last := rfl
@[simp] theorem raise_pend (ev : Status) (s : State) : (s.raise ev).pend = s.pend := rfl
@[simp] theorem raise_agenda (ev : Status) (s : State) : (s.raise ev).agenda = s.agenda := rfl
@[simp] theorem raise_obs (ev : Status) (s : State) : (s.raise ev).obs = s.obs ++ [.status ev] := rfl
@[simp] theorem raise_unitOut (ev : Status) (s : State) : (s.raise ev).unitOut = s.unitOut := rfl

@[simp] theorem append_buf (b : Byte) (s : State) : (s.append b).buf = s.buf ++ [b] := rfl
@[simp] theorem append_last (b : Byte) (s : State) : (s.append b).last = s.last := rfl
@[simp] theorem append_pend (b : Byte) (s : State) : (s.append b).pend = s.pend := rfl
@[simp] theorem append_agenda (b : Byte) (s : State) : (s.append b).agenda = s.agenda := rfl
@[simp] theorem append_obs (b : Byte) (s : State) : (s.append b).obs = s.obs := rfl
@[simp] theorem append_unitOut (b : Byte) (s : State) : (s.append b).unitOut = s.unitOut := rfl

@[simp] theorem dropFront_buf (n : Nat) (s : State) : (s.dropFront n).buf = s.buf.drop n := rfl
@[simp] theorem dropFront_last (n : Nat) (s : State) : (s.dropFront n).last = s.last := rfl
@[simp] theorem dropFront_pend (n : Nat) (s : State) : (s.dropFront n).pend = s.pend := rfl
@[simp] theorem dropFront_agenda (n : Nat) (s : State) : (s.dropFront n).agenda = s.agenda := rfl
@[simp] theorem dropFront_obs (n : Nat) (s : State) : (s.dropFront n).obs = s.obs := rfl
@[simp] theorem dropFront_unitOut (n : Nat) (s : State) : (s.dropFront n).unitOut = s.unitOut := rfl

@[simp] theorem dispatchSet_buf (new : ChannelSet) (s : State) : (s.dispatchSet new).buf = s.buf := rfl
@[simp] theorem dispatchSet_last (new : ChannelSet) (s : State) : (s.dispatchSet new).last = updatedLast s.last new := rfl
@[simp] theorem dispatchSet_pend (new : ChannelSet) (s : State) : (s.dispatchSet new).pend = changedDeltas s.last new := rfl
@[simp] theorem dispatchSet_agenda (new : ChannelSet) (s : State) : (s.dispatchSet new).agenda = s.agenda := rfl
@[simp] theorem dispatchSet_obs (new : ChannelSet) (s : State) : (s.dispatchSet new).obs = s.obs := rfl
@[simp] theorem dispatchSet_unitOut (new : ChannelSet) (s : State) : (s.dispatchSet new).unitOut = s.unitOut := rfl

@[simp] theorem popPend_buf (s : State) : (s.popPend).buf = s.buf := rfl
@[simp] theorem popPend_last (s : State) : (s.popPend).last = s.last := rfl
@[simp] theorem popPend_pend (s : State) : (s.popPend).pend = s.pend.tail := rfl
@[simp] theorem popPend_agenda (s : State) : (s.popPend).agenda = s.agenda := rfl
@[simp] theorem popPend_obs (s : State) : (s.popPend).obs = s.obs := rfl
@[simp] theorem popPend_unitOut (s : State) : (s.popPend).unitOut = s.unitOut := rfl

@[simp] theorem clear_buf (s : State) : (s.clear).buf = [] := rfl
@[simp] theorem clear_last (s : State) : (s.clear).last = zeroChannels := rfl
@[simp] theorem clear_pend (s : State) : (s.clear).pend = [] := rfl
@[simp] theorem clear_agenda (s : State) : (s.clear).agenda = s.agenda := rfl
@[simp] theorem clear_obs (s : State) : (s.clear).obs = s.obs := rfl
@[simp] theorem clear_unitOut (s : State) : (s.clear).unitOut = s.unitOut := rfl

@[simp] theorem setUnitOut_buf (v : UnitOut) (s : State) : (s.setUnitOut v).buf = s.buf := rfl
@[simp] theorem setUnitOut_last (v : UnitOut) (s : State) : (s.setUnitOut v).last = s.last := rfl
@[simp] theorem setUnitOut_pend (v : UnitOut) (s : State) : (s.setUnitOut v).pend = s.pend := rfl
@[simp] theorem setUnitOut_agenda (v : UnitOut) (s : State) : (s.setUnitOut v).agenda = s.agenda := rfl
@[simp] theorem setUnitOut_obs (v : UnitOut) (s : State) : (s.setUnitOut v).obs = s.obs := rfl
@[simp] theorem setUnitOut_unitOut (v : UnitOut) (s : State) : (s.setUnitOut v).unitOut = v := rfl

@[simp] theorem advance_buf (s : State) : (s.advance).buf = s.buf := rfl
@[simp] theorem advance_last (s : State) : (s.advance).last = s.last := rfl
@[simp] theorem advance_pend (s : State) : (s.advance).pend = s.pend := rfl
@[simp] theorem advance_agenda (s : State) : (s.advance).agenda = s.agenda.tail := rfl
@[simp] theorem advance_obs (s : State) : (s.advance).obs = s.obs := rfl
@[simp] theorem advance_unitOut (s : State) : (s.advance).unitOut = s.unitOut := rfl

@[simp] theorem prompt_buf (t : Turn) (s : State) : (s.prompt t).buf = s.buf := rfl
@[simp] theorem prompt_last (t : Turn) (s : State) : (s.prompt t).last = s.last := rfl
@[simp] theorem prompt_pend (t : Turn) (s : State) : (s.prompt t).pend = s.pend := rfl
@[simp] theorem prompt_agenda (t : Turn) (s : State) : (s.prompt t).agenda = t :: s.agenda := rfl
@[simp] theorem prompt_obs (t : Turn) (s : State) : (s.prompt t).obs = s.obs := rfl
@[simp] theorem prompt_unitOut (t : Turn) (s : State) : (s.prompt t).unitOut = s.unitOut := rfl

@[simp] theorem memRead_zero (n : Nat) (s : State) : s.memRead 0 n = s.buf.take n := rfl

end Sys2Proof.Machine.State
end

