-- ==== Sys2Proof/Laws/Memory.lean ====
section
/-! SUPPORT. Every operation on the ByteBuffer keeps its bound (R20, R43), and reset has it. -/

namespace Sys2Proof.Machine

theorem maxFrame_le_bufCap : Config.maxFrame ≤ Config.bufCap := by
  unfold Config.bufCap
  exact Nat.le_add_left _ _

theorem Memory.wf_nil : Memory.wf [] := Nat.zero_le _

theorem Memory.wf_reset : Memory.wf State.reset.buf := Memory.wf_nil

theorem Memory.wf_append {s : State} (h : inReady false s = true) (b : Byte) :
    Memory.wf (s.append b).buf := by
  simp only [inReady, Bool.not_false, Bool.true_and, decide_eq_true_eq] at h
  simp only [State.append_buf, Memory.wf, List.length_append, List.length_singleton]
  omega

theorem Memory.wf_dropFront {s : State} (h : Memory.wf s.buf) (n : Nat) :
    Memory.wf (s.dropFront n).buf := by
  simp only [State.dropFront_buf, Memory.wf, List.length_drop]
  exact Nat.le_trans (Nat.sub_le _ _) h

end Sys2Proof.Machine
end

