-- ==== Sys2Proof/Laws/Operands.lean ====
section
/-! SUPPORT. What SyncAction, the candidate of a frame and the decoder of the head can answer, said once. -/

namespace Sys2Proof.Machine

@[simp] theorem syncAction_nil : syncAction [] = .wait := rfl

theorem syncAction_cons_of_ne (b : Byte) (rest : List Byte) (h : b ≠ Config.addr) :
    syncAction (b :: rest) = .drop := by
  simp [syncAction, h]

@[simp] theorem syncAction_addr_alone : syncAction [Config.addr] = .wait := by
  simp [syncAction]

theorem syncAction_addr (l : Byte) (rest : List Byte) :
    syncAction (Config.addr :: l :: rest) =
      if rest.length < l.toNat then .wait else .extract (l.toNat + 2) := by
  simp [syncAction]

theorem syncAction_eq_wait_iff (buf : List Byte) :
    syncAction buf = .wait ↔ buf = [] ∨ buf = [Config.addr] ∨
      ∃ l rest, buf = Config.addr :: l :: rest ∧ rest.length < l.toNat := by
  match buf with
  | [] => simp
  | [a] =>
    by_cases h : a = Config.addr
    · simp [h]
    · simp [syncAction_cons_of_ne _ _ h, h]
  | a :: l :: rest =>
    by_cases h : a = Config.addr
    · subst h
      rw [syncAction_addr]
      split <;> simp_all
    · simp [syncAction_cons_of_ne _ _ h, h]

theorem syncAction_eq_drop_iff (buf : List Byte) :
    syncAction buf = .drop ↔ ∃ b rest, buf = b :: rest ∧ b ≠ Config.addr := by
  match buf with
  | [] => simp
  | [a] =>
    by_cases h : a = Config.addr
    · simp [h]
    · simp [syncAction_cons_of_ne _ _ h, h]
  | a :: l :: rest =>
    by_cases h : a = Config.addr
    · subst h
      rw [syncAction_addr]
      split <;> simp
    · simp [syncAction_cons_of_ne _ _ h, h]

theorem syncAction_eq_extract_iff (buf : List Byte) (n : Nat) :
    syncAction buf = .extract n ↔
      ∃ l rest, buf = Config.addr :: l :: rest ∧ n = l.toNat + 2 ∧ l.toNat ≤ rest.length := by
  match buf with
  | [] => simp
  | [a] =>
    by_cases h : a = Config.addr
    · simp [h]
    · simp [syncAction_cons_of_ne _ _ h]
  | a :: l :: rest =>
    by_cases h : a = Config.addr
    · subst h
      rw [syncAction_addr]
      split
      · simp only [reduceCtorEq, false_iff]
        rintro ⟨l', rest', he, -, hl⟩
        cases he
        omega
      · simp only [SyncAct.extract.injEq]
        constructor
        · rintro rfl
          exact ⟨l, rest, rfl, rfl, by omega⟩
        · rintro ⟨l', rest', he, rfl, -⟩
          cases he
          rfl
    · simp only [syncAction_cons_of_ne _ _ h, reduceCtorEq, false_iff]
      rintro ⟨l', rest', he, -, -⟩
      cases he
      exact h rfl

/-- An Extract's byte count lies in 2..257 and within the buffer. -/
theorem extract_bounds {buf : List Byte} {n : Nat} (h : syncAction buf = .extract n) :
    2 ≤ n ∧ n ≤ Config.maxFrame ∧ n ≤ buf.length := by
  obtain ⟨l, rest, rfl, rfl, hl⟩ := (syncAction_eq_extract_iff _ _).1 h
  have := l.isLt
  simp only [Config.maxFrame, List.length_cons]
  omega

@[simp] theorem rawFrame_length (cand : Candidate) :
    (rawFrame cand).length = cand.payload.length + 4 := by
  simp [rawFrame]

theorem rawFrame_ne_nil (cand : Candidate) : rawFrame cand ≠ [] := by
  simp [rawFrame]

theorem lengthField_toNat {n : Nat} (h : n ≤ 253) : (BitVec.ofNat 8 (n + 2)).toNat = n + 2 := by
  simp only [BitVec.toNat_ofNat]
  omega

theorem candidateOf_rawFrame {cand : Candidate} (h : cand.payload.length ≤ 253) :
    candidateOf (rawFrame cand) = some cand := by
  simp only [rawFrame, candidateOf, lengthField_toNat h, Nat.add_sub_cancel]
  have : ¬ cand.payload.length + 2 < 2 := by omega
  simp [this]

theorem syncAction_rawFrame_append {cand : Candidate} (h : cand.payload.length ≤ 253) (rest : List Byte) :
    syncAction (rawFrame cand ++ rest) = .extract (rawFrame cand).length := by
  rw [syncAction_eq_extract_iff]
  refine ⟨_, _, rfl, ?_, ?_⟩
  · rw [lengthField_toNat h, rawFrame_length]
  · rw [lengthField_toNat h]
    simp

/-- What a candidate is: its frame is the raw frame it was taken from. -/
theorem rawFrame_of_candidateOf {l : Byte} {body : List Byte} {cand : Candidate}
    (hl : body.length = l.toNat) (h : candidateOf (Config.addr :: l :: body) = some cand) :
    rawFrame cand = Config.addr :: l :: body ∧ cand.payload.length + 2 = l.toNat := by
  match body with
  | [] => simp [candidateOf] at h
  | t :: rest =>
    simp only [candidateOf] at h
    split at h
    · cases h
    · rename_i h2
      split at h
      · rename_i c hc
        cases h
        simp only [List.length_cons] at hl
        have hr : rest.length = (l.toNat - 2) + 1 := by omega
        have htake : rest.take (l.toNat - 2) ++ [c] = rest := by
          obtain ⟨hlt, hget⟩ := List.getElem?_eq_some_iff.1 hc
          rw [← hget, List.take_append_getElem, List.take_of_length_le (by omega)]
        have hlen : (rest.take (l.toNat - 2)).length = l.toNat - 2 := by
          simp
          omega
        refine ⟨?_, by rw [hlen]; omega⟩
        simp only [rawFrame, htake, hlen, show l.toNat - 2 + 2 = l.toNat by omega]
        simp
      · cases h

theorem candidateOf_eq_none_iff {l : Byte} {body : List Byte} (hl : body.length = l.toNat) :
    candidateOf (Config.addr :: l :: body) = none ↔ l.toNat < 2 := by
  match body with
  | [] =>
    simp at hl
    simp [candidateOf]
    omega
  | t :: rest =>
    simp only [candidateOf]
    split
    · simp_all
    · rename_i h2
      have hr : l.toNat - 2 < rest.length := by
        simp only [List.length_cons] at hl
        omega
      simp [List.getElem?_eq_getElem hr]
      omega

theorem decodeHead_of_wait {buf : List Byte} (h : syncAction buf = .wait) :
    decodeHead buf = .syncWait := by
  cases buf with
  | nil => rfl
  | cons b rest => simp [decodeHead, h]

theorem decodeHead_of_drop {b : Byte} {rest : List Byte} (h : b ≠ Config.addr) :
    decodeHead (b :: rest) = .syncDrop b := by
  simp [decodeHead, syncAction_cons_of_ne _ _ h]

theorem decodeHead_of_extract {buf : List Byte} {n : Nat} (h : syncAction buf = .extract n) :
    decodeHead buf = decodeFrame (buf.take n) := by
  cases buf with
  | nil => simp at h
  | cons b rest => simp [decodeHead, h]

theorem decodeHead_rawFrame_append {cand : Candidate} (h : cand.payload.length ≤ 253) (rest : List Byte) :
    decodeHead (rawFrame cand ++ rest) = decodeCandidate cand := by
  rw [decodeHead_of_extract (syncAction_rawFrame_append h rest), List.take_left, decodeFrame,
    candidateOf_rawFrame h]

theorem decodeHead_malformed_append {l : Byte} {body : List Byte} (hl : body.length = l.toNat)
    (h2 : l.toNat < 2) (rest : List Byte) :
    decodeHead (Config.addr :: l :: body ++ rest) = .frameMalformed (Config.addr :: l :: body) := by
  have hx : syncAction (Config.addr :: l :: body ++ rest) = .extract (Config.addr :: l :: body).length := by
    rw [syncAction_eq_extract_iff]
    exact ⟨l, body ++ rest, rfl, by simp [hl], by simp; omega⟩
  rw [decodeHead_of_extract hx, List.take_left, decodeFrame, (candidateOf_eq_none_iff hl).2 h2]

theorem unpack_eq_none_iff (p : List Byte) : unpack p = none ↔ p.length ≠ Config.payloadRc := by
  simp [unpack]

theorem verdictStatus_validate (cand : Candidate) :
    verdictStatus (validate cand) =
      if computedCrc cand ≠ cand.crc then .crcFail
      else if cand.frameType ≠ Config.typeRc then .typeIgnored
      else if cand.payload.length ≠ Config.payloadRc then .rcBadLength
      else .rcDecoded := by
  unfold validate
  split
  · rfl
  · split
    · rfl
    · by_cases h : cand.payload.length = Config.payloadRc <;> simp [unpack, h, verdictStatus]

end Sys2Proof.Machine
end

