-- ==== Sys2Proof/Laws/Ops.lean ====
section
/-! SUPPORT. When an operation is taken, and what the effects of a CORE step do, said once for each shared operation. -/

namespace Sys2Proof.Machine

@[simp] theorem takeIf_true (s t : State) : takeIf true s t = .next t := rfl

@[simp] theorem takeIf_false (s t : State) : takeIf false s t = .next s := rfl

/-- Everything `takeIf` can answer. -/
theorem takeIf_eq_next_iff (c : Bool) (s t u : State) :
    takeIf c s t = .next u ↔ (c = true ∧ u = t) ∨ (c = false ∧ u = s) := by
  cases c <;> simp [takeIf, eq_comm]

theorem selects_iff (s : State) (i : Instr) :
    selects s i = true ↔ s.pend = [] ∧ decodeHead s.buf = i := by
  simp [selects]

theorem inReady_iff (s : State) : inReady false s = true ↔ s.buf.length < Config.bufCap := by
  simp [inReady]

theorem outDelta_false (s : State) : outDelta false s = s.pend.head? := by
  cases h : s.pend <;> simp [outDelta, outValid, h]

theorem outDelta_eq_some_iff (s : State) (d : Delta) :
    outDelta false s = some d ↔ ∃ rest, s.pend = d :: rest := by
  rw [outDelta_false]
  cases h : s.pend <;> simp

theorem updatedLast_eq (last new : ChannelSet) : updatedLast last new = new := by
  ext i hi : 1
  unfold updatedLast
  rw [Vector.getElem_ofFn, laneUpdate]
  split
  · rfl
  · rename_i h
    exact (not_not.1 h).symm

theorem laneDelta_eq_some_iff (last new : ChannelSet) (i : Fin 16) (d : Delta) :
    laneDelta last new i = some d ↔ new[i] ≠ last[i] ∧ d = ⟨i, new[i].setWidth 16⟩ := by
  unfold laneDelta
  split <;> simp_all [eq_comm]

theorem mem_changedDeltas_iff (last new : ChannelSet) (d : Delta) :
    d ∈ changedDeltas last new ↔ new[d.index] ≠ last[d.index] ∧ d.value = new[d.index].setWidth 16 := by
  simp only [changedDeltas, List.mem_filterMap, List.mem_finRange, true_and, laneDelta_eq_some_iff]
  constructor
  · rintro ⟨i, h, rfl⟩
    exact ⟨h, rfl⟩
  · rintro ⟨h, hv⟩
    exact ⟨d.index, h, by cases d; simp_all⟩

theorem changedDeltas_length_le (last new : ChannelSet) : (changedDeltas last new).length ≤ 16 := by
  have h := List.length_filterMap_le (laneDelta last new) (List.finRange 16)
  rwa [List.length_finRange] at h

/-- Everything a verdict's effect changes: `last` and `pend` in the decoded case alone, one event always. -/
theorem verdictEffect_eq (v : Verdict) (s : State) :
    verdictEffect v s =
      (match verdictChannels v with
        | some cs => s.dispatchSet cs
        | none => s).raise (verdictStatus v) := by
  cases v <;> rfl

@[simp] theorem verdictEffect_buf (v : Verdict) (s : State) : (verdictEffect v s).buf = s.buf := by
  cases v <;> rfl

@[simp] theorem verdictEffect_agenda (v : Verdict) (s : State) : (verdictEffect v s).agenda = s.agenda := by
  cases v <;> rfl

@[simp] theorem verdictEffect_unitOut (v : Verdict) (s : State) : (verdictEffect v s).unitOut = s.unitOut := by
  cases v <;> rfl

@[simp] theorem verdictEffect_obs (v : Verdict) (s : State) :
    (verdictEffect v s).obs = s.obs ++ [.status (verdictStatus v)] := by
  cases v <;> rfl

@[simp] theorem extractEffect_buf (n : Nat) (s : State) : (extractEffect n s).buf = s.buf.drop n := by
  unfold extractEffect
  split <;> simp [malformedEffect]

@[simp] theorem extractEffect_agenda (n : Nat) (s : State) : (extractEffect n s).agenda = s.agenda := by
  unfold extractEffect
  split <;> simp [malformedEffect]

@[simp] theorem extractEffect_unitOut (n : Nat) (s : State) : (extractEffect n s).unitOut = s.unitOut := by
  unfold extractEffect
  split <;> simp [malformedEffect]

/-- An extraction of a candidate's frame has the effect of its verdict. -/
theorem extractEffect_rawFrame {s : State} {cand : Candidate} {rest : List Byte}
    (h : cand.payload.length ≤ 253) (hb : s.buf = rawFrame cand ++ rest) :
    extractEffect (rawFrame cand).length s =
      verdictEffect (validate cand) (s.dropFront (rawFrame cand).length) := by
  unfold extractEffect
  rw [State.memRead_zero, hb, List.take_left, candidateOf_rawFrame h]

@[simp] theorem dropEffect_buf (s : State) : (dropEffect s).buf = s.buf.drop 1 := rfl
@[simp] theorem dropEffect_last (s : State) : (dropEffect s).last = s.last := rfl
@[simp] theorem dropEffect_pend (s : State) : (dropEffect s).pend = s.pend := rfl
@[simp] theorem dropEffect_agenda (s : State) : (dropEffect s).agenda = s.agenda := rfl
@[simp] theorem dropEffect_obs (s : State) : (dropEffect s).obs = s.obs ++ [.status .resync] := rfl
@[simp] theorem dropEffect_unitOut (s : State) : (dropEffect s).unitOut = s.unitOut := rfl

end Sys2Proof.Machine
end

