-- ==== Sys2Proof/Laws/PerInstr.lean ====
section
/-! SUPPORT. How many bytes the word of each operation has, by its format: a statement about the encoding alone, one lemma
per operation. -/

namespace Sys2Proof.Laws.EncodedSize

open Sys2Proof Sys2Proof.Machine

/-- The lengths a format allows (R60, R61, R64, R65, the widths of R201). -/
def fits (fmt : Format) (n : Nat) : Prop :=
  match fmt with
  | .crc8Step => n = 2
  | .crc8 => 1 ≤ n
  | .unpack => True
  | .validate => 2 ≤ n ∧ n ≤ 255
  | .dispatch => n = Config.payloadRc
  | .sync => 2 ≤ n ∧ n ≤ Config.maxFrame
  | .head => n ≤ Config.maxFrame
  | .core => 1 ≤ n
  | .output => n = 3
  | .input => n = 1
  | .host => n = 1

/-- The word of a well-formed operation has a length its format allows. -/
def Statement (i : Instr) : Prop :=
  wellFormed i = true → fits (formatOf i) (encode i).length

theorem rawFrame_fits {cand : Candidate} (h : payloadFits cand = true) :
    fits .head (rawFrame cand).length := by
  simp [payloadFits] at h
  simp [fits, Config.maxFrame]
  omega

theorem crc8Step (c b : Byte) : Statement (.crc8Step c b) := fun _ => rfl

theorem crc8 (seed : Byte) (data : List Byte) : Statement (.crc8 seed data) := fun _ => by
  simp [fits, formatOf, encode]

theorem unpack (p : List Byte) : Statement (.unpack p) := fun _ => trivial

theorem syncWait : Statement .syncWait := fun _ => by simp [fits, formatOf, encode]

theorem syncDrop (b : Byte) : Statement (.syncDrop b) := fun _ => by
  simp [fits, formatOf, encode, Config.maxFrame]

theorem syncExtract (n : Nat) : Statement (.syncExtract n) := fun h => by
  simp only [wellFormed, Bool.and_eq_true, decide_eq_true_eq] at h
  simp [fits, formatOf, encode, Config.maxFrame] at h ⊢
  omega

theorem frameMalformed (f : List Byte) : Statement (.frameMalformed f) := fun h => by
  simp only [wellFormed, malformedFrame] at h
  split at h
  · simp at h
    simp [fits, formatOf, encode, Config.maxFrame]
    omega
  · cases h

theorem validate (cand : Candidate) : Statement (.validate cand) := fun h => by
  simp [wellFormed, payloadFits] at h
  simp [fits, formatOf, encode]
  omega

theorem valCrcFail (cand : Candidate) : Statement (.valCrcFail cand) := fun h =>
  rawFrame_fits (by simp only [wellFormed, Bool.and_eq_true] at h; exact h.1)

theorem valIgnore (cand : Candidate) : Statement (.valIgnore cand) := fun h =>
  rawFrame_fits (by simp only [wellFormed, Bool.and_eq_true] at h; exact h.1)

theorem valRcBadLen (cand : Candidate) : Statement (.valRcBadLen cand) := fun h =>
  rawFrame_fits (by simp only [wellFormed, Bool.and_eq_true] at h; exact h.1)

theorem valRc (cand : Candidate) : Statement (.valRc cand) := fun h =>
  rawFrame_fits (by simp only [wellFormed, Bool.and_eq_true] at h; exact h.1)

theorem dispatch (new : ChannelSet) : Statement (.dispatch new) := fun _ => by
  simp [fits, formatOf, encode, pack]

theorem deliver (d : Delta) : Statement (.deliver d) := fun _ => rfl

theorem feed (b : Byte) : Statement (.feed b) := fun _ => rfl

theorem core : Statement .core := fun _ => by simp [fits, formatOf, encode]

theorem reset : Statement .reset := fun _ => rfl

end Sys2Proof.Laws.EncodedSize
end

