-- ==== Sys2Proof/Laws/Stream.lean ====
section
/-! SUPPORT. The unfolding of a drained run by its first action, and what one recorded event adds to the observation. -/

namespace Sys2Proof.Machine

/-- Fuel beyond the buffer's length changes nothing. -/
theorem drainSteps_of_le (k m : Nat) (last : ChannelSet) (buf : List Byte)
    (hk : buf.length ≤ k) (hm : buf.length ≤ m) : drainSteps k last buf = drainSteps m last buf := by
  induction k generalizing m last buf with
  | zero =>
    have : buf = [] := List.length_eq_zero_iff.1 (by omega)
    subst this
    cases m <;> simp [drainSteps]
  | succ k ih =>
    cases m with
    | zero =>
      have : buf = [] := List.length_eq_zero_iff.1 (by omega)
      subst this
      simp [drainSteps]
    | succ m =>
      simp only [drainSteps]
      cases h : syncAction buf with
      | wait => rfl
      | drop =>
        rw [ih m last (buf.drop 1) (by simp; omega) (by simp; omega)]
      | extract n =>
        have hb := extract_bounds h
        dsimp only
        rw [ih m _ (buf.drop n) (by simp; omega) (by simp; omega)]

theorem drain_of_wait {buf : List Byte} (h : syncAction buf = .wait) (last : ChannelSet) :
    drain last buf = ⟨[], [], last, buf⟩ := by
  unfold drain
  cases buf with
  | nil => rfl
  | cons b rest => simp [drainSteps, h]

theorem drain_of_drop {buf : List Byte} (h : syncAction buf = .drop) (last : ChannelSet) :
    drain last buf = consDrained .resync [] (drain last (buf.drop 1)) := by
  obtain ⟨b, rest, rfl, -⟩ := (syncAction_eq_drop_iff _).1 h
  simp [drain, drainSteps, h]

theorem drain_of_extract {buf : List Byte} {n : Nat} (h : syncAction buf = .extract n) (last : ChannelSet) :
    drain last buf =
      consDrained (frameResult last (buf.take n)).1 (frameResult last (buf.take n)).2.1
        (drain (frameResult last (buf.take n)).2.2 (buf.drop n)) := by
  have hb := extract_bounds h
  unfold drain
  obtain ⟨m, hm⟩ : ∃ m, buf.length = m + 1 := ⟨buf.length - 1, by omega⟩
  rw [hm]
  simp only [drainSteps, h]
  rw [drainSteps_of_le m (buf.drop n).length _ (buf.drop n) (by simp; omega) (Nat.le_refl _)]

/-- The effect of an extraction is what `frameResult` says of its frame. -/
theorem extractEffect_eq_frameResult (n : Nat) (s : State) (hp : s.pend = []) :
    extractEffect n s =
      { s with
        buf := s.buf.drop n
        last := (frameResult s.last (s.buf.take n)).2.2
        pend := (frameResult s.last (s.buf.take n)).2.1
        obs := s.obs ++ [.status (frameResult s.last (s.buf.take n)).1] } := by
  unfold extractEffect frameResult
  rw [State.memRead_zero]
  cases candidateOf (s.buf.take n) with
  | none => simp [malformedEffect, State.raise, State.record, State.dropFront, hp]
  | some cand =>
    cases h : validate cand <;>
      simp [h, verdictEffect, crcFailEffect, ignoreEffect, badLenEffect, rcEffect, State.raise, State.record,
        State.dropFront, State.dispatchSet, hp]

@[simp] theorem sinceReset_nil : sinceReset [] = [] := rfl

@[simp] theorem sinceReset_append_reset (l : List PortEvent) : sinceReset (l ++ [.reset]) = [] := by
  simp [sinceReset]

theorem sinceReset_append_of_ne (l : List PortEvent) {e : PortEvent} (h : e ≠ .reset) :
    sinceReset (l ++ [e]) = sinceReset l ++ [e] := by
  simp [sinceReset, h]

end Sys2Proof.Machine
end

