-- ==== Sys2Proof/Laws/Run.lean ====
section
/-! SUPPORT. Runs of the machine behind the host's interface, unfolded one step at a time, and the induction over a run
packaged once. -/

namespace Sys2Proof.Machine

theorem run_zero (s : State) : Sys2Proof.core.run 0 s = .next s := rfl

theorem run_succ (n : Nat) (s : State) :
    Sys2Proof.core.run (n + 1) s =
      (match step s with
        | .next s' => Sys2Proof.core.run n s'
        | .fault r => .fault r
        | .refused r => .refused r) := by
  simp only [Host.Core.run]
  rw [show Sys2Proof.core.step s = step s from rfl]
  cases step s <;> rfl

theorem run_succ_of_next {s s' : State} (h : step s = .next s') (n : Nat) :
    Sys2Proof.core.run (n + 1) s = Sys2Proof.core.run n s' := by
  rw [run_succ, h]

/-- What every step keeps, every run keeps. -/
theorem run_keeps {P : State → Prop} (hstep : ∀ s t : State, P s → step s = .next t → P t) :
    ∀ (n : Nat) (s t : State), P s → Sys2Proof.core.run n s = .next t → P t := by
  intro n
  induction n with
  | zero =>
    intro s t hs h
    rw [run_zero] at h
    cases h
    exact hs
  | succ n ih =>
    intro s t hs h
    rw [run_succ] at h
    cases hst : step s with
    | next s' =>
      rw [hst] at h
      exact ih s' t (hstep s s' hs hst) h
    | fault r => cases r
    | refused r =>
      rw [hst] at h
      cases h

end Sys2Proof.Machine
end

