-- ==== Sys2Proof/Tests/Slice0.lean ====
section
/-! SUPPORT. Our own tests. Expected values come from spec/95_test_vectors.md and from the words of the rules, by hand. -/

namespace Sys2Proof.Tests

open Sys2Proof Sys2Proof.Machine Sys2Proof.Safety

-- One theorem after another: many kernel evaluations side by side would each hold a thread's stack.
set_option Elab.async false

/-! ## Inputs, from the tables of spec/95_test_vectors.md -/

/-- PACK(MID). -/
def midPayload : List Byte :=
  [0xE0, 0x03, 0x1F, 0xF8, 0xC0, 0x07, 0x3E, 0xF0, 0x81, 0x0F, 0x7C] ++
  [0xE0, 0x03, 0x1F, 0xF8, 0xC0, 0x07, 0x3E, 0xF0, 0x81, 0x0F, 0x7C]

/-- RC(MID) with the CRC byte given. -/
def midFrame (crc : Byte) : List Byte :=
  [0xC8, 0x18, 0x16] ++ midPayload ++ [crc]

def mid : ChannelSet := Vector.replicate 16 992

def maxSet : ChannelSet := Vector.replicate 16 2047

/-- MID3: MID with channel 3 at 1500. -/
def mid3 : ChannelSet := mid.set 3 1500

def idx : ChannelSet := #v[0, 1, 2, 3, 4, 5, 6, 7, 8, 9, 10, 11, 12, 13, 14, 15]

def cal : ChannelSet :=
  #v[172, 992, 1811, 992, 172, 1811, 992, 992, 172, 992, 1811, 992, 172, 1811, 992, 992]

/-- The candidate of RC(MID). -/
def midCand : Candidate := ⟨0x16, midPayload, 0xAD⟩

/-- The candidate of `{00, 00 x253, 00}`, the longest there is. -/
def longCand : Candidate := ⟨0x00, List.replicate 253 0x00, 0x00⟩

/-- A state over the reset state, with no choice of the host ahead. -/
def st (buf : List Byte) (last : ChannelSet) (pend : List Delta) : State :=
  { State.reset with buf := buf, last := last, pend := pend }

/-- The reset state with a buffer. -/
def stBuf (buf : List Byte) : State := st buf zeroChannels []

/-- The reset state with one choice of the host ahead. -/
def stTurn (t : Turn) : State := { State.reset with agenda := [t] }

/-- What a next state holds; nothing where there is none. -/
def after {α : Type} (o : Host.Outcome State Fault Refusal) (f : State → α) : Option α :=
  match o with
  | .next t => some (f t)
  | .fault _ => none
  | .refused _ => none

/-- The fields of the block and the observation. -/
def block (s : State) : List Byte × ChannelSet × List Delta × List PortEvent :=
  (s.buf, s.last, s.pend, s.obs)

/-- Zero bytes keep a zero CRC (section 2.2). -/
theorem crc8_zeros (n : Nat) : crc8 0x00 (List.replicate n 0x00) = 0x00 := by
  induction n with
  | zero => rfl
  | succ n ih =>
    have h : crc8Step 0x00 0x00 = 0x00 := by decide +kernel
    rw [List.replicate_succ, crc8, h, ih]

theorem longCand_crc : crc8 (crc8 0x00 [longCand.frameType]) longCand.payload = longCand.crc := by
  have h : crc8 0x00 [longCand.frameType] = 0x00 := by decide +kernel
  rw [h]
  exact crc8_zeros 253

/-- Section 2.5, last row. -/
theorem test_validate_longest : validate longCand = .typeIgnored := by
  have h : computedCrc longCand = longCand.crc := longCand_crc
  have t : longCand.frameType ≠ Config.typeRc := by decide
  simp only [validate, h, t, ne_eq, not_true_eq_false, not_false_eq_true, if_true, if_false]

theorem longCand_wellFormed : wellFormed (.valIgnore longCand) = true := by
  simp only [wellFormed, test_validate_longest, Bool.and_eq_true]
  decide +kernel

/-! ## WellFormed refuses an ill-formed term for each check -/

theorem test_wf_drop_of_addr : wellFormed (.syncDrop 0xC8) = false := by decide +kernel
theorem test_wf_drop : wellFormed (.syncDrop 0xC7) = true := by decide +kernel
theorem test_wf_extract_short : wellFormed (.syncExtract 1) = false := by decide +kernel
theorem test_wf_extract_long : wellFormed (.syncExtract 258) = false := by decide +kernel
theorem test_wf_extract_ends : wellFormed (.syncExtract 2) = true ∧ wellFormed (.syncExtract 257) = true := by
  decide +kernel
theorem test_wf_malformed_addr : wellFormed (.frameMalformed [0xC7, 0x00]) = false := by decide +kernel
theorem test_wf_malformed_length : wellFormed (.frameMalformed [0xC8, 0x02, 0x16, 0xD3]) = false := by
  decide +kernel
theorem test_wf_malformed_count : wellFormed (.frameMalformed [0xC8, 0x01]) = false := by decide +kernel
theorem test_wf_malformed_empty : wellFormed (.frameMalformed []) = false := by decide +kernel
theorem test_wf_payload_254 : wellFormed (.validate ⟨0x00, List.replicate 254 0, 0x00⟩) = false := by
  decide +kernel
theorem test_wf_payload_253 : wellFormed (.validate longCand) = true := by decide +kernel
theorem test_wf_crcFail_with_good_crc : wellFormed (.valCrcFail midCand) = false := by decide +kernel
theorem test_wf_crcFail_payload : wellFormed (.valCrcFail ⟨0x00, List.replicate 254 0, 0x01⟩) = false := by
  decide +kernel
theorem test_wf_ignore_of_rc : wellFormed (.valIgnore midCand) = false := by decide +kernel
theorem test_wf_ignore_payload : wellFormed (.valIgnore ⟨0x00, List.replicate 254 0, 0x00⟩) = false := by
  decide +kernel
theorem test_wf_badLen_of_22 : wellFormed (.valRcBadLen midCand) = false := by decide +kernel
theorem test_wf_rc_of_bad_crc : wellFormed (.valRc ⟨0x16, midPayload, 0x52⟩) = false := by decide +kernel
theorem test_wf_deliver_2048 : wellFormed (.deliver ⟨3, 2048⟩) = false := by decide +kernel

/-! ## Decoding, words written out from the formats -/

/-- `ccccccccbbbbbbbb`: 1101 0011, 1110 0000. -/
theorem test_decode_crc8Step : decode .crc8Step [0b11010011, 0b11100000] = .ok (.crc8Step 0xD3 0xE0) := by
  decide +kernel

/-- `ssssssss d*`. -/
theorem test_decode_crc8 : decode .crc8 [0x5A, 0x61, 0x62] = .ok (.crc8 0x5A [0x61, 0x62]) := by decide +kernel

/-- `p*`. -/
theorem test_decode_unpack : decode .unpack [0x01, 0x02] = .ok (.unpack [0x01, 0x02]) := by decide +kernel

/-- `tttttttt p* cccccccc`. -/
theorem test_decode_validate :
    decode .validate [0x14, 0x01, 0x02, 0x1E] = .ok (.validate ⟨0x14, [0x01, 0x02], 0x1E⟩) := by decide +kernel

/-- R66 row 2. -/
theorem test_decode_empty : decode .head [] = .ok .syncWait := by decide +kernel

/-- R66 row 3. -/
theorem test_decode_drop : decode .head [0x18, 0xC8] = .ok (.syncDrop 0x18) := by decide +kernel

/-- R66 row 4. -/
theorem test_decode_addr_alone : decode .head [0xC8] = .ok .syncWait := by decide +kernel

/-- R66 row 5: five bytes of twenty-six. -/
theorem test_decode_incomplete : decode .head [0xC8, 0x18, 0x16, 0xE0, 0x03] = .ok .syncWait := by decide +kernel

/-- R140 on RC(MID) ++ [00]: the trailing byte stays. -/
theorem test_decode_extract : decode .sync (midFrame 0xAD ++ [0x00]) = .ok (.syncExtract 26) := by decide +kernel

/-- R66 row 6, L = 0 and L = 1; the second is not checked against its CRC. -/
theorem test_decode_malformed :
    decode .head [0xC8, 0x00, 0xC8] = .ok (.frameMalformed [0xC8, 0x00]) ∧
      decode .head [0xC8, 0x01, 0xB3] = .ok (.frameMalformed [0xC8, 0x01, 0xB3]) := by decide +kernel

/-- R66 row 7: RC!(MID). -/
theorem test_decode_crcFail : decode .head (midFrame 0x52) = .ok (.valCrcFail ⟨0x16, midPayload, 0x52⟩) := by
  decide +kernel

/-- R66 row 8: FRAME(0x14; 01, 02). -/
theorem test_decode_ignore :
    decode .head [0xC8, 0x04, 0x14, 0x01, 0x02, 0x1E] = .ok (.valIgnore ⟨0x14, [0x01, 0x02], 0x1E⟩) := by
  decide +kernel

/-- R66 row 9: FRAME(0x16; 00 x21). -/
theorem test_decode_badLen :
    decode .head ([0xC8, 0x17, 0x16] ++ List.replicate 21 0x00 ++ [0x80]) =
      .ok (.valRcBadLen ⟨0x16, List.replicate 21 0x00, 0x80⟩) := by decide +kernel

/-- R66 row 10: RC(MID). -/
theorem test_decode_rc : decode .head (midFrame 0xAD) = .ok (.valRc midCand) := by decide +kernel

/-- `n*` in the layout of R64: PACK(MID). -/
theorem test_decode_dispatch : decode .dispatch midPayload = .ok (.dispatch mid) := by decide +kernel

/-- `iiii0000 0vvvvvvvvvvv`: index 3 and value 0x05DC; index 15 and value 0x07FF. -/
theorem test_decode_deliver :
    decode .output [0b00000011, 0b00000101, 0b11011100] = .ok (.deliver ⟨3, 1500⟩) ∧
      decode .output [0b00001111, 0b00000111, 0b11111111] = .ok (.deliver ⟨15, 2047⟩) := by decide +kernel

/-- Bits 15:11 of the value are 0, and the index has four bits. -/
theorem test_decode_deliver_reserved :
    decode .output [0x03, 0x08, 0x00] = .error .reservedBits ∧
      decode .output [0x10, 0x00, 0x00] = .error .reservedBits := by decide +kernel

/-- `bbbbbbbb`. -/
theorem test_decode_feed : decode .input [0x18] = .ok (.feed 0x18) := by decide +kernel

/-- CORE runs on any head whose action is not Wait. -/
theorem test_decode_core :
    decode .core [0x00] = .ok .core ∧ decode .core [0xC8] = .error .coreWaits := by decide +kernel

/-- `r`. -/
theorem test_decode_reset :
    decode .host [0x01] = .ok .reset ∧ decode .host [0x00] = .error .noReset := by decide +kernel

/-- Words too short for their format. -/
theorem test_decode_short :
    decode .crc8Step [0x00] = .error .wrongLength ∧ decode .crc8 [] = .error .wrongLength ∧
      decode .validate [0x16] = .error .wrongLength ∧ decode .dispatch [0x00] = .error .wrongLength ∧
      decode .output [0x00] = .error .wrongLength ∧ decode .input [] = .error .wrongLength := by decide +kernel

/-- The head word of R65: address in 23:16, length in 15:8, type in 7:0. -/
theorem test_head_word : headWord (midFrame 0xAD) = some 0xC81816 ∧ headWord [0xC8, 0x18] = none := by
  decide +kernel

/-! ## Meanings, one step each -/

/-- Section 2.1: `T[33]` and the polynomial. -/
theorem test_crc8Step :
    after (exec (.crc8Step 0xD3 0xE0) State.reset) (fun s => s.unitOut) = some (.crc 0x5C) ∧
      after (exec (.crc8Step 0x00 0x01) State.reset) (fun s => s.unitOut) = some (.crc 0xD5) := by decide +kernel

/-- Section 2.2: the check value, and the seed for no data. -/
theorem test_crc8 :
    after (exec (.crc8 0x00 [0x31, 0x32, 0x33, 0x34, 0x35, 0x36, 0x37, 0x38, 0x39]) State.reset)
        (fun s => s.unitOut) = some (.crc 0xBC) ∧
      after (exec (.crc8 0x5A []) State.reset) (fun s => s.unitOut) = some (.crc 0x5A) := by decide +kernel

/-- Section 2.3: byte k = k. -/
theorem test_unpack :
    after (exec (.unpack ((List.range 22).map (BitVec.ofNat 8))) State.reset) (fun s => s.unitOut) =
      some (.channels (some
        #v[256, 64, 12, 642, 96, 14, 578, 80, 1035, 417, 1080, 7, 273, 1572, 1284, 168])) := by decide +kernel

/-- Section 2.3: no ChannelSet from 21 or 23 bytes. -/
theorem test_unpack_length :
    unpack (List.replicate 21 0x00) = none ∧ unpack (List.replicate 23 0x00) = none := by decide +kernel

/-- R142's example. -/
theorem test_wait : after (exec .syncWait (stBuf [0xC8, 0x18, 0x16, 0x00, 0x00])) id =
    some (stBuf [0xC8, 0x18, 0x16, 0x00, 0x00]) := by decide +kernel

/-- R141's example. -/
theorem test_drop : after (exec (.syncDrop 0x00) (stBuf [0x00, 0xC8, 0x18])) block =
    some ([0xC8, 0x18], zeroChannels, [], [.status .resync]) := by decide +kernel

/-- R143's example on RC!(MID): the frame goes, the trailing byte stays. -/
theorem test_extract : after (exec (.syncExtract 26) (stBuf (midFrame 0x52 ++ [0x00]))) block =
    some ([0x00], zeroChannels, [], [.status .crcFail]) := by decide +kernel

/-- R144's example. -/
theorem test_malformed : after (exec (.frameMalformed [0xC8, 0x00]) (stBuf [0xC8, 0x00, 0xC8, 0x18])) block =
    some ([0xC8, 0x18], zeroChannels, [], [.status .malformedLen]) := by decide +kernel

/-- Section 2.5: the CRC is checked before the type; a 22-byte payload does not make it RC. -/
theorem test_validate :
    after (exec (.validate ⟨0x14, [0x01, 0x02], 0x1F⟩) State.reset) (fun s => s.unitOut) =
        some (.verdict .crcFail none) ∧
      after (exec (.validate midCand) State.reset) (fun s => s.unitOut) =
        some (.verdict .rcDecoded (some mid)) := by decide +kernel

theorem test_crcFail : after (exec (.valCrcFail ⟨0x16, midPayload, 0x52⟩) (stBuf (midFrame 0x52))) block =
    some ([], zeroChannels, [], [.status .crcFail]) := by decide +kernel

theorem test_ignore : after (exec (.valIgnore ⟨0x14, [], 0xAC⟩) (stBuf [0xC8, 0x02, 0x14, 0xAC, 0x55])) block =
    some ([0x55], zeroChannels, [], [.status .typeIgnored]) := by decide +kernel

theorem test_badLen : after (exec (.valRcBadLen ⟨0x16, [], 0xD3⟩) (stBuf [0xC8, 0x02, 0x16, 0xD3])) block =
    some ([], zeroChannels, [], [.status .rcBadLength]) := by decide +kernel

/-- E6, frame 3: from MID to MID3 one delta. -/
theorem test_rc : after (exec (.valRc midCand) (st (midFrame 0xAD) mid3 [])) block =
    some ([], mid, [⟨3, 992⟩], [.status .rcDecoded]) := by decide +kernel

/-- Section 2.6: ZERO to IDX gives fifteen deltas, channel 0 none. -/
theorem test_dispatch : after (exec (.dispatch idx) State.reset) (fun s => s.pend) =
    some [⟨1, 1⟩, ⟨2, 2⟩, ⟨3, 3⟩, ⟨4, 4⟩, ⟨5, 5⟩, ⟨6, 6⟩, ⟨7, 7⟩, ⟨8, 8⟩, ⟨9, 9⟩, ⟨10, 10⟩, ⟨11, 11⟩, ⟨12, 12⟩,
      ⟨13, 13⟩, ⟨14, 14⟩, ⟨15, 15⟩] := by decide +kernel

/-- Section 2.6: MID to CAL. -/
theorem test_dispatch_cal : after (exec (.dispatch cal) (st [] mid [])) (fun s => (s.last, s.pend)) =
    some (cal, [⟨0, 172⟩, ⟨2, 1811⟩, ⟨4, 172⟩, ⟨5, 1811⟩, ⟨8, 172⟩, ⟨10, 1811⟩, ⟨12, 172⟩, ⟨13, 1811⟩]) := by
  decide +kernel

/-- Section 2.7: the oldest delta goes first. -/
theorem test_deliver : after (exec (.deliver ⟨0, 172⟩) (st [] cal [⟨0, 172⟩, ⟨2, 1811⟩])) block =
    some ([], cal, [⟨2, 1811⟩], [.output ⟨0, 172⟩]) := by decide +kernel

/-- Section 2.7: what stands on the port of `pend = [(15, 2047)]`. -/
theorem test_ports : outIndex false (st [] maxSet [⟨15, 2047⟩]) = some 0xF ∧
    outValue false (st [] maxSet [⟨15, 2047⟩]) = some 0x07FF ∧
    outValid true (st [] maxSet [⟨15, 2047⟩]) = false := by decide +kernel

/-- R202's example. -/
theorem test_feed : after (exec (.feed 0x18) (stBuf [0xC8])) block =
    some ([0xC8, 0x18], zeroChannels, [], [.input 0x18]) := by decide +kernel

/-- Section 2.7: a full buffer is not ready, and one short of it takes a byte. -/
theorem test_feed_capacity :
    inReady false (stBuf (List.replicate Config.bufCap 0)) = false ∧
      inReady false (stBuf (List.replicate (Config.bufCap - 1) 0)) = true := by
  have h : 1 ≤ Config.bufCap := by unfold Config.bufCap Config.maxFrame; omega
  simp [inReady, stBuf, st]
  omega

/-- Section 2.8: `C8 02 16 00`. -/
theorem test_core : after (exec .core (stBuf [0xC8, 0x02, 0x16, 0x00])) block =
    some ([], zeroChannels, [], [.status .crcFail]) := by decide +kernel

/-- Section 2.7: CORE is not enabled while deltas are pending. -/
theorem test_core_pending : after (exec .core (st [0x00] cal [⟨0, 172⟩])) id =
    some (st [0x00] cal [⟨0, 172⟩]) := by decide +kernel

/-- R250's example. -/
theorem test_reset : after (exec .reset (st [0xC8, 0x18, 0x16] (zeroChannels.set 0 992) [⟨1, 5⟩])) block =
    some ([], zeroChannels, [], [.reset]) := by decide +kernel

/-! ## Steps -/

/-- With no choice of the host ahead the core moves: RC(MID) decodes in one step. -/
theorem test_step_core : after (step (stBuf (midFrame 0xAD))) (fun s => (s.buf, s.last, s.pend.length)) =
    some ([], mid, 16) := by decide +kernel

/-- A word of the opcode table placed at the head of the buffer is what the next step runs. -/
theorem test_step_table_word : after (step (State.reset.withFetchWord 24 0xC80000)) (fun s => s.obs) =
    some [.status .malformedLen] := by decide +kernel

/-- A FEED word and a RESET bit, each on its port. -/
theorem test_step_port_words :
    after (step (State.reset.withFetchWord 8 0x18)) (fun s => s.buf) = some [0x18] ∧
      after (step (State.reset.withFetchWord 1 1)) (fun s => s.obs) = some [.reset] := by decide +kernel

/-- P2's first two frames, run to Wait. -/
theorem test_drain : (decodeStream (midFrame 0x52 ++ [0xC8, 0x04, 0x14, 0x01, 0x02, 0x1E, 0xC8])).events =
    [.crcFail, .typeIgnored] := by decide +kernel

/-! ## Witnesses: for each statement with hypotheses, values that meet them all together, at the ends of each range -/

theorem witness_Crc8StepRunsEightIterations : (0x80 ^^^ 0x00 : Byte) = 0x00 ^^^ 0x80 := by decide +kernel

theorem witness_Crc8ResidueAndLinearity : ([0x16, 0xFF] : List Byte).length = [0x00, 0x01].length := by
  decide +kernel

theorem witness_UnpackReadsTheBitStream :
    (([] : List Byte).length ≠ 22 ∧ (List.replicate 21 (0 : Byte)).length ≠ 22 ∧
      (List.replicate 23 (0 : Byte)).length ≠ 22) ∧ midPayload.length = 22 ∧ 0 < 11 ∧ 10 < 11 := by decide +kernel

theorem witness_UnpackEquivalentForms : midPayload.length = 22 := by decide +kernel

theorem witness_PackIsTheInverseOfUnpack : unpack midPayload = some mid := by decide +kernel

theorem witness_SyncActionFollowsTheChecks :
    (0xC7 : Byte) ≠ 0xC8 ∧ (0xC9 : Byte) ≠ 0xC8 ∧
      ([0xC8, 0x01] : List Byte).length < (0x01 : Byte).toNat + 2 ∧
      ([0xC8, 0xFF] ++ List.replicate 254 0 : List Byte).length < (0xFF : Byte).toNat + 2 ∧
      ¬ ([0xC8, 0x00] : List Byte).length < (0x00 : Byte).toNat + 2 ∧
      ¬ ([0xC8, 0xFF] ++ List.replicate 255 0 : List Byte).length < (0xFF : Byte).toNat + 2 := by decide +kernel

theorem witness_LongLengthFieldsDoNotWrap :
    (List.replicate 253 (0 : Byte)).length < 254 ∧ 254 ≤ (List.replicate 254 (0 : Byte)).length ∧
      (List.replicate 254 (0 : Byte)).length < 255 ∧ 255 ≤ (List.replicate 255 (0 : Byte)).length ∧
      syncAction [0xC8, 0x00] = .extract 2 ∧
      syncAction ([0xC8, 0xFF] ++ List.replicate 255 0) = .extract 257 := by decide +kernel

theorem witness_SyncWaitRetainsTheBuffer :
    syncAction (stBuf []).buf = .wait ∧ syncAction (stBuf [0xC8]).buf = .wait ∧
      syncAction (stBuf ([0xC8, 0xFF] ++ List.replicate 254 0)).buf = .wait := by decide +kernel

theorem witness_SyncDropDropsOneByte :
    (stBuf [0xC7, 0xC8]).pend = [] ∧ (stBuf [0xC7, 0xC8]).buf = 0xC7 :: [0xC8] ∧ (0xC7 : Byte) ≠ 0xC8 := by
  decide +kernel

theorem witness_SyncExtractRunsTheWholeStep :
    ((stBuf [0xC8, 0x01, 0xB3]).pend = [] ∧ ([0xB3] : List Byte).length = (0x01 : Byte).toNat ∧
      (0x01 : Byte).toNat < 2 ∧ (stBuf [0xC8, 0x01, 0xB3]).buf = 0xC8 :: 0x01 :: ([0xB3] ++ [])) ∧
      ((stBuf [0xC8, 0x02, 0x16, 0xD3]).pend = [] ∧ ([] : List Byte).length + 2 = (0x02 : Byte).toNat ∧
        (stBuf [0xC8, 0x02, 0x16, 0xD3]).buf = 0xC8 :: 0x02 :: 0x16 :: ([] ++ 0xD3 :: [])) ∧
      ((List.replicate 253 (0 : Byte)).length + 2 = (0xFF : Byte).toNat) := by decide +kernel

theorem witness_FrameMalformedConsumesTheFrame :
    ((stBuf [0xC8, 0x00, 0xC8]).pend = [] ∧ ([] : List Byte).length = (0x00 : Byte).toNat ∧
      (0x00 : Byte).toNat < 2 ∧ (stBuf [0xC8, 0x00, 0xC8]).buf = 0xC8 :: 0x00 :: ([] ++ [0xC8])) ∧
      ((stBuf [0xC8, 0x01, 0xB3]).pend = [] ∧ ([0xB3] : List Byte).length = (0x01 : Byte).toNat ∧
        (0x01 : Byte).toNat < 2 ∧ (stBuf [0xC8, 0x01, 0xB3]).buf = 0xC8 :: 0x01 :: ([0xB3] ++ [])) := by
  decide +kernel

theorem witness_FullBufferProgresses :
    257 ≤ ([0xC8, 0xFF] ++ List.replicate 255 0 : List Byte).length ∧
      (stBuf (List.replicate Config.bufCap 0)).buf.length = Config.bufCap ∧
      (stBuf (List.replicate Config.bufCap 0)).pend = [] :=
  ⟨by decide +kernel, List.length_replicate, rfl⟩

theorem witness_ChunkingIsUnobservable :
    syncAction [0x00] ≠ .wait ∧ syncAction [0x00] = .drop ∧ syncAction [0xC8, 0x00] = .extract 2 ∧
      syncAction ([0xC8, 0xFF] ++ List.replicate 255 0) = .extract 257 := by decide +kernel

theorem witness_ValidateChecksInOrder :
    crc8 (crc8 0x00 [0x16]) midPayload ≠ 0x52 ∧
      (crc8 (crc8 0x00 [0x14]) [0x01, 0x02] = 0x1E ∧ (0x14 : Byte) ≠ 0x16) ∧
      (crc8 (crc8 0x00 [0x16]) (List.replicate 21 0) = 0x80 ∧ (List.replicate 21 (0 : Byte)).length ≠ 22) ∧
      (crc8 (crc8 0x00 [0x16]) (List.replicate 23 0) = 0xAB ∧ (List.replicate 23 (0 : Byte)).length ≠ 22) ∧
      (crc8 (crc8 0x00 [0x16]) midPayload = 0xAD ∧ midPayload.length = 22) := by decide +kernel

theorem witness_ValCrcFailDiscards :
    (stBuf (midFrame 0x52)).pend = [] ∧ midPayload.length ≤ 253 ∧
      (stBuf (midFrame 0x52)).buf = rawFrame ⟨0x16, midPayload, 0x52⟩ ++ [] ∧
      crc8 (crc8 0x00 [0x16]) midPayload ≠ 0x52 := by decide +kernel

theorem witness_ValIgnoreSkipsOtherTypes :
    (stBuf (rawFrame longCand ++ [0x55])).pend = [] ∧ longCand.payload.length ≤ 253 ∧
      (stBuf (rawFrame longCand ++ [0x55])).buf = rawFrame longCand ++ [0x55] ∧
      crc8 (crc8 0x00 [longCand.frameType]) longCand.payload = longCand.crc ∧ longCand.frameType ≠ 0x16 :=
  ⟨rfl, by decide +kernel, rfl, longCand_crc, by decide⟩

theorem witness_ValRcBadLenDiscards :
    (stBuf [0xC8, 0x02, 0x16, 0xD3]).pend = [] ∧ ([] : List Byte).length ≤ 253 ∧
      (stBuf [0xC8, 0x02, 0x16, 0xD3]).buf = rawFrame ⟨0x16, [], 0xD3⟩ ++ [] ∧
      crc8 (crc8 0x00 [0x16]) [] = 0xD3 ∧ ([] : List Byte).length ≠ 22 := by decide +kernel

theorem witness_ValRcDecodesTheFrame :
    (stBuf (midFrame 0xAD)).pend = [] ∧ midCand.payload.length = 22 ∧
      (stBuf (midFrame 0xAD)).buf = rawFrame midCand ++ [] ∧
      crc8 (crc8 0x00 [midCand.frameType]) midCand.payload = midCand.crc ∧ midCand.frameType = 0x16 := by
  decide +kernel

theorem witness_DispatchLoadsTheChanges : (st [] mid []).pend = [] := by decide +kernel

theorem witness_DispatchEmitsExactlyTheChanges :
    (⟨3, 1500⟩ : Delta) ∈ changedDeltas mid mid3 ∧ (1500 : Chan) ≠ mid[3] := by decide +kernel

theorem witness_FirstFrameEmitsTheNonZero : idx[15] ≠ 0 ∧ idx[0] = 0 := by decide +kernel

theorem witness_DeliverHandsOverTheOldest : (st [] cal [⟨0, 172⟩, ⟨2, 1811⟩]).pend = ⟨0, 172⟩ :: [⟨2, 1811⟩] := by
  decide +kernel

theorem witness_FeedAppendsOneByte :
    (stBuf []).buf.length < Config.bufCap ∧
      (stBuf (List.replicate (Config.bufCap - 1) 0)).buf.length < Config.bufCap := by
  have h : 1 ≤ Config.bufCap := by unfold Config.bufCap Config.maxFrame; omega
  simp [stBuf, st]
  omega

theorem witness_FullBufferHoldsTheProducer :
    (stBuf (List.replicate Config.bufCap 0)).buf.length = Config.bufCap := by
  simp [stBuf, st]

theorem witness_CoreRunsTheSelectedOperation :
    (stBuf [0x00]).pend = [] ∧ (st [0x00] cal [⟨0, 172⟩]).pend ≠ [] := by decide +kernel

theorem witness_CoreRaisesOneEvent :
    ((stBuf [0x00]).pend = [] ∧ syncAction (stBuf [0x00]).buf ≠ .wait) ∧
      (st [0x00] cal [⟨0, 172⟩]).pend ≠ [] ∧ syncAction (stBuf [0xC8]).buf = .wait := by decide +kernel

theorem witness_PriorityOfConditions :
    (0x00 : Byte) ≠ 0xC8 ∧ ([0x01] : List Byte).length < (0x02 : Byte).toNat ∧
      (List.replicate 254 (0 : Byte)).length < (0xFF : Byte).toNat ∧
      (([] : List Byte).length = (0x00 : Byte).toNat ∧ (0x00 : Byte).toNat < 2) ∧
      (([0xB3] : List Byte).length = (0x01 : Byte).toNat ∧ (0x01 : Byte).toNat < 2) ∧
      (([] : List Byte).length + 2 = (0x02 : Byte).toNat ∧ crc8 (crc8 0x00 [0x16]) [] ≠ 0x00) ∧
      ((List.replicate 253 (0 : Byte)).length + 2 = (0xFF : Byte).toNat ∧ (0x00 : Byte) ≠ 0x16) ∧
      (crc8 (crc8 0x00 [0x16]) [] = 0xD3 ∧ (0x02 : Byte) ≠ 24) ∧
      (midPayload.length + 2 = (24 : Byte).toNat ∧ crc8 (crc8 0x00 [0x16]) midPayload = 0xAD) := by decide +kernel

/-- The fifth clause at L = 255: the longest frame with its CRC. -/
theorem witness_PriorityOfConditions_longest : crc8 (crc8 0x00 [longCand.frameType]) longCand.payload = longCand.crc :=
  longCand_crc

theorem witness_PortsFollowTheState :
    (st [] cal [⟨0, 172⟩]).pend = ⟨0, 172⟩ :: [] ∧ outValid true (st [] cal [⟨0, 172⟩]) = false ∧
      outValid false State.reset = false := by decide +kernel

theorem witness_ObservationDecidesNothing :
    SameBlock State.reset { State.reset with obs := [.reset], unitOut := .crc 0xD3 } :=
  ⟨rfl, rfl, rfl, rfl⟩

theorem witness_StepRunsTheDecodedOperation :
    ((stBuf [0x00]).turn = .core ∧ (stBuf [0x00]).pend = [] ∧
      decode .head (stBuf [0x00]).buf = .ok (.syncDrop 0x00) ∧ wellFormed (.syncDrop 0x00) = true) ∧
      ((st [] cal [⟨0, 172⟩]).turn = .core ∧ (st [] cal [⟨0, 172⟩]).pend ≠ []) ∧
      (stTurn (.offer 0x18)).turn = .offer 0x18 ∧
      ({ st [] cal [⟨0, 172⟩] with agenda := [.accept] }).turn = .accept ∧
      ((stTurn .accept).turn = .accept ∧ (stTurn .accept).pend = []) ∧
      (stTurn .reset).turn = .reset ∧
      ((stTurn (.evaluate .crc8Step [0x00, 0x16])).turn = .evaluate .crc8Step [0x00, 0x16] ∧
        decode (unitFormat .crc8Step) [0x00, 0x16] = .ok (.crc8Step 0x00 0x16)) ∧
      ((stTurn (.evaluate .crc8 [])).turn = .evaluate .crc8 [] ∧
        decode (unitFormat .crc8) [] = .error .wrongLength) ∧
      decodeTableWord 24 0xC80000 = some (.frameMalformed [0xC8, 0x00]) := by decide +kernel

theorem witness_EveryStepIsOneOfFour :
    after (step (stBuf [0xC8])) id = some (stBuf [0xC8]) ∧
      after (step (stTurn (.offer 0x18))) (fun s => s.buf) = some [0x18] ∧
      after (step (stBuf [0x00])) (fun s => s.obs) = some [.status .resync] ∧
      after (step { st [] cal [⟨0, 172⟩] with agenda := [.accept] }) (fun s => s.pend) = some [] ∧
      after (step (stTurn .reset)) (fun s => s.obs) = some [.reset] := by decide +kernel

theorem witness_DecodeOfEncodeIsTheOperation :
    wellFormed (.syncDrop 0x00) = true ∧ wellFormed (.syncExtract 2) = true ∧
      wellFormed (.syncExtract 257) = true ∧ wellFormed (.frameMalformed [0xC8, 0x01, 0xB3]) = true ∧
      wellFormed (.validate longCand) = true ∧ wellFormed (.valCrcFail ⟨0x16, midPayload, 0x52⟩) = true ∧
      wellFormed (.valIgnore ⟨0x14, [], 0xAC⟩) = true ∧ wellFormed (.valRcBadLen ⟨0x16, [], 0xD3⟩) = true ∧
      wellFormed (.valRc midCand) = true ∧ wellFormed (.deliver ⟨15, 2047⟩) = true := by decide +kernel

theorem witness_DecodedOperationsAreWellFormed :
    decode .output [0x0F, 0x07, 0xFF] = .ok (.deliver ⟨15, 2047⟩) := by decide +kernel

theorem witness_HeadWordIsAPrefixOfTheBuffer :
    wellFormed (.valIgnore longCand) = true ∧ formatOf (.valIgnore longCand) = .head ∧
      Instr.valIgnore longCand ≠ .syncWait :=
  ⟨longCand_wellFormed, rfl, by simp⟩

theorem reset_bounded : Bounded State.reset :=
  ⟨Nat.zero_le _, by decide, List.Pairwise.nil, by simp [State.reset]⟩

theorem reset_followsStream : FollowsStream State.reset :=
  fun _ => ⟨rfl, rfl, rfl, rfl⟩

theorem reset_viewFollows : ViewFollows State.reset := rfl

theorem witness_StepKeepsBounded :
    Bounded State.reset ∧ exec .syncWait State.reset = .next State.reset ∧
      step State.reset = .next State.reset :=
  ⟨reset_bounded, rfl, rfl⟩

theorem witness_StepKeepsFollowsStream : FollowsStream State.reset ∧ step State.reset = .next State.reset :=
  ⟨reset_followsStream, rfl⟩

theorem witness_StepKeepsViewFollows : ViewFollows State.reset ∧ step State.reset = .next State.reset :=
  ⟨reset_viewFollows, rfl⟩

theorem next_of_after {o : Host.Outcome State Fault Refusal} {t : State} (h : after o id = some t) : o = .next t := by
  cases o with
  | next s => exact congrArg Host.Outcome.next (Option.some.inj h)
  | fault r => cases r
  | refused r => cases h

/-- A run of one step, the feed of the byte 0xC8. -/
theorem run_feed : Sys2Proof.core.run 1 { State.reset with agenda := [.offer 0xC8] } =
    .next { State.reset with buf := [0xC8], obs := [.input 0xC8] } := by
  rw [run_succ_of_next (next_of_after (t := { State.reset with buf := [0xC8], obs := [.input 0xC8] })
    (by decide +kernel)), run_zero]

/-- The run above ends at an end of a run. -/
theorem witness_OutputIsAFunctionOfTheInput :
    ∃ t, Sys2Proof.core.run 1 { State.reset with agenda := [.offer 0xC8] } = .next t ∧ t.atEnd ∧
      t.buf = [0xC8] :=
  ⟨_, run_feed, ⟨rfl, syncAction_addr_alone⟩, rfl⟩

theorem witness_ConsumerViewEqualsLast :
    ∃ t, Sys2Proof.core.run 1 { State.reset with agenda := [.offer 0xC8] } = .next t ∧ t.pend = [] :=
  ⟨_, run_feed, rfl⟩

/-- One turn, then the core's turn for ever. -/
def firstTurn (x : Turn) : Nat → Turn
  | 0 => x
  | _ + 1 => .core

/-- One state, then another for ever. -/
def firstState (a b : State) : Nat → State
  | 0 => a
  | _ + 1 => b

theorem fairRun_first {x : Turn} {a b : State} (h : after (step { a with agenda := [x] }) id = some b)
    (hb : after (step { b with agenda := [.core] }) id = some b) (hp : b.pend = []) :
    FairRun (firstTurn x) (fun _ => true) (firstState a b) := by
  refine ⟨⟨fun n => ?_, fun _ _ => rfl⟩, fun n _ => ⟨n + 1, Nat.le_succ n, rfl⟩, fun n hn => ?_⟩
  · cases n with
    | zero => exact next_of_after h
    | succ n => exact next_of_after hb
  · exact absurd hp (hn (n + 1) (Nat.le_succ n)).1

theorem keepsAccepting_always (states : Nat → State) (n : Nat) : KeepsAccepting (fun _ => true) states n :=
  fun _ _ _ => rfl

/-- The consumer takes the one pending delta in the first turn. -/
theorem witness_FairRunsDeliverEveryDelta :
    FairRun (firstTurn .accept) (fun _ => true)
      (firstState (st [] cal [⟨0, 172⟩]) { st [] cal [] with obs := [.output ⟨0, 172⟩] }) ∧
      KeepsAccepting (fun _ => true)
        (firstState (st [] cal [⟨0, 172⟩]) { st [] cal [] with obs := [.output ⟨0, 172⟩] }) 0 ∧
      (firstState (st [] cal [⟨0, 172⟩]) { st [] cal [] with obs := [.output ⟨0, 172⟩] } 0).pend =
        [] ++ ⟨0, 172⟩ :: [] :=
  ⟨fairRun_first (by decide +kernel) (by decide +kernel) rfl, keepsAccepting_always _ _, rfl⟩

/-- The core drops the one byte in the first turn. -/
theorem witness_FairRunsConsumeEveryByte :
    FairRun (firstTurn .core) (fun _ => true)
      (firstState (stBuf [0x00]) { stBuf [] with obs := [.status .resync] }) ∧
      KeepsAccepting (fun _ => true)
        (firstState (stBuf [0x00]) { stBuf [] with obs := [.status .resync] }) 0 ∧
      0 < (firstState (stBuf [0x00]) { stBuf [] with obs := [.status .resync] } 0).buf.length :=
  ⟨fairRun_first (by decide +kernel) (by decide +kernel) rfl, keepsAccepting_always _ _, by decide⟩

/-- The byte 0xC8 alone, fed in the first turn, is a trailing incomplete frame. -/
theorem witness_FairRunsConsumeEveryByte_trailing :
    FairRun (firstTurn (.offer 0xC8)) (fun _ => true)
      (firstState (stBuf []) { stBuf [0xC8] with obs := [.input 0xC8] }) ∧
      KeepsAccepting (fun _ => true) (firstState (stBuf []) { stBuf [0xC8] with obs := [.input 0xC8] }) 1 ∧
      0 < (firstState (stBuf []) { stBuf [0xC8] with obs := [.input 0xC8] } 1).buf.length :=
  ⟨fairRun_first (by decide +kernel) (by decide +kernel) rfl, keepsAccepting_always _ _, by decide⟩

/-- A RESET comes first. -/
theorem witness_FairRunsConsumeEveryByte_reset :
    FairRun (firstTurn .reset) (fun _ => true)
      (firstState (stBuf [0xC8]) { stBuf [] with obs := [.reset] }) ∧
      KeepsAccepting (fun _ => true) (firstState (stBuf [0xC8]) { stBuf [] with obs := [.reset] }) 0 ∧
      0 < (firstState (stBuf [0xC8]) { stBuf [] with obs := [.reset] } 0).buf.length :=
  ⟨fairRun_first (by decide +kernel) (by decide +kernel) rfl, keepsAccepting_always _ _, by decide⟩

theorem witness_BackpressureLosesNothing :
    (st [] cal [⟨0, 172⟩]).pend ≠ [] ∧ (st [] cal [⟨0, 172⟩]).buf.length ≤ Config.bufCap ∧
      (∀ x ∈ [Turn.core, .offer 0x18], x = .core ∨ ∃ b, x = .offer b) ∧
      [0x18] = [Turn.core, .offer 0x18].filterMap (fun | .offer b => some b | _ => none) :=
  ⟨by decide, Nat.zero_le _, by simp, rfl⟩

theorem witness_CombinationalFunctionsWriteNoState :
    formatOf (.crc8Step 0x00 0x16) = .crc8Step ∧ formatOf (.crc8 0x00 []) = .crc8 ∧
      formatOf (.unpack []) = .unpack ∧ formatOf (.validate midCand) = .validate ∧
      after (exec (.crc8Step 0x00 0x16) State.reset) id = some { State.reset with unitOut := .crc 0xD3 } := by
  decide +kernel

theorem witness_DiscardingOperationsKeepLastAndPend :
    after (exec (.frameMalformed [0xC8, 0x00]) (stBuf [0xC8, 0x00])) (fun s => s.buf) = some [] ∧
      after (exec (.syncDrop 0x01) (stBuf [0x00])) id = some (stBuf [0x00]) := by decide +kernel

theorem witness_ExtractingOperationsFrame :
    after (exec .core (stBuf (midFrame 0xAD))) (fun s => s.last) = some mid ∧
      after (exec (.syncExtract 2) (stBuf [0xC8, 0x00])) (fun s => s.last) = some zeroChannels ∧
      after (exec (.valRc midCand) (stBuf (midFrame 0xAD))) (fun s => s.buf) = some [] := by decide +kernel

theorem witness_PortOperationsFrame :
    after (exec (.dispatch mid) (stBuf [0x00])) (fun s => s.buf) = some [0x00] ∧
      after (exec (.deliver ⟨0, 172⟩) (st [] cal [⟨0, 172⟩])) (fun s => s.last) = some cal ∧
      (st [] cal [⟨2, 1811⟩]).pend.head? ≠ some ⟨0, 172⟩ ∧
      after (exec (.feed 0x18) (st [0xC8] cal [])) (fun s => s.last) = some cal := by decide +kernel

end Sys2Proof.Tests
end

/-! SUPPORT. Proofs of the statements about the state (spec/10_state.md): R30's invariant under every update, every
operation and every step, and the reset state of R31. -/

namespace Sys2Proof.Safety

open Sys2Proof.Machine

/-! ## R30's invariant, field by field -/

/-- The part of R30 that speaks of the pending deltas, as a property of `last` and `pend` alone. -/
def PendBounded (last : ChannelSet) (pend : List Delta) : Prop :=
  pend.length ≤ 16 ∧ pend.Pairwise (fun a b => a.index < b.index) ∧
    ∀ d ∈ pend, d.value = (last[d.index]).setWidth 16 ∧ d.value.toNat < 2048

theorem bounded_iff (s : State) : Bounded s ↔ Memory.wf s.buf ∧ PendBounded s.last s.pend := Iff.rfl

theorem PendBounded.nil (last : ChannelSet) : PendBounded last [] :=
  ⟨Nat.zero_le _, List.Pairwise.nil, fun _ hd => absurd hd List.not_mem_nil⟩

theorem PendBounded.tail {last : ChannelSet} {pend : List Delta} (h : PendBounded last pend) :
    PendBounded last pend.tail := by
  obtain ⟨hlen, hasc, hval⟩ := h
  exact ⟨by rw [List.length_tail]; omega, hasc.tail, fun d hd => hval d (List.mem_of_mem_tail hd)⟩

/-- R180's list is in ascending index, since a lane's delta carries the lane's own index. -/
theorem changedDeltas_ascending (last new : ChannelSet) :
    (changedDeltas last new).Pairwise (fun a b => a.index < b.index) := by
  refine List.Pairwise.filterMap _ (fun i j hij d hd e he => ?_) (List.pairwise_lt_finRange 16)
  obtain ⟨-, rfl⟩ := (laneDelta_eq_some_iff last new i d).1 hd
  obtain ⟨-, rfl⟩ := (laneDelta_eq_some_iff last new j e).1 he
  exact hij

/-- A channel value zero-extended to 16 bits stays below 2048 (R181). -/
theorem toNat_setWidth_chan_lt (v : Chan) : (v.setWidth 16).toNat < 2048 := by
  rw [BitVec.toNat_setWidth_of_le (by decide)]
  exact v.isLt

theorem PendBounded.changedDeltas (last new : ChannelSet) :
    PendBounded (updatedLast last new) (changedDeltas last new) := by
  refine ⟨changedDeltas_length_le last new, changedDeltas_ascending last new, fun d hd => ?_⟩
  obtain ⟨-, hv⟩ := (mem_changedDeltas_iff last new d).1 hd
  rw [updatedLast_eq, hv]
  exact ⟨rfl, toNat_setWidth_chan_lt _⟩

/-! ## Every update of the state keeps the invariant -/

theorem bounded_of_empty {s : State} (hb : s.buf = []) (hp : s.pend = []) : Bounded s := by
  rw [bounded_iff, hb, hp]
  exact ⟨Memory.wf_nil, PendBounded.nil _⟩

section Updates
variable {s : State} (h : Bounded s)
include h

theorem Bounded.advance : Bounded s.advance := h

theorem Bounded.record (e : PortEvent) : Bounded (s.record e) := h

theorem Bounded.raise (ev : Status) : Bounded (s.raise ev) := h

theorem Bounded.setUnitOut (v : UnitOut) : Bounded (s.setUnitOut v) := h

theorem Bounded.dropFront (n : Nat) : Bounded (s.dropFront n) :=
  ⟨Memory.wf_dropFront h.1 n, h.2⟩

theorem Bounded.append (hr : inReady false s = true) (b : Byte) : Bounded (s.append b) :=
  ⟨Memory.wf_append hr b, h.2⟩

theorem Bounded.popPend : Bounded s.popPend :=
  ⟨h.1, PendBounded.tail h.2⟩

theorem Bounded.dispatchSet (new : ChannelSet) : Bounded (s.dispatchSet new) :=
  ⟨h.1, PendBounded.changedDeltas s.last new⟩

theorem Bounded.verdictEffect (v : Verdict) : Bounded (verdictEffect v s) := by
  rw [verdictEffect_eq]
  refine Bounded.raise ?_ _
  cases verdictChannels v with
  | none => exact h
  | some cs => exact h.dispatchSet cs

theorem Bounded.dropEffect : Bounded (dropEffect s) :=
  (h.dropFront 1).raise _

theorem Bounded.extractEffect (n : Nat) : Bounded (extractEffect n s) := by
  unfold Machine.extractEffect
  split
  · exact (h.dropFront n).raise _
  · exact (h.dropFront n).verdictEffect _

end Updates

/-! ## Operations and steps -/

/-- What holds before and after a step that is taken holds whether it is taken or not. -/
theorem takeIf_keeps {P : State → Prop} {c : Bool} {s t u : State} (hs : P s) (ht : c = true → P t)
    (h : takeIf c s t = .next u) : P u := by
  obtain ⟨hc, rfl⟩ | ⟨-, rfl⟩ := (takeIf_eq_next_iff c s t u).1 h
  · exact ht hc
  · exact hs

theorem execCore_keeps_bounded {s t : State} (hs : Bounded s) (h : execCore s = .next t) : Bounded t := by
  unfold execCore at h
  split at h
  · cases h
    exact hs
  · exact takeIf_keeps hs (fun _ => hs.dropEffect) h
  · exact takeIf_keeps hs (fun _ => hs.extractEffect _) h

theorem execValRc_keeps_bounded {s t : State} {cand : Candidate} (hs : Bounded s)
    (h : execValRc cand s = .next t) : Bounded t := by
  unfold execValRc at h
  split at h
  · exact takeIf_keeps hs (fun _ => ((hs.dropFront _).dispatchSet _).raise _) h
  · cases h
    exact hs

theorem exec_keeps_bounded {i : Instr} {s t : State} (hs : Bounded s) (h : exec i s = .next t) : Bounded t := by
  have frame (n : Nat) (ev : Status) : Bounded ((s.dropFront n).raise ev) :=
    (hs.dropFront n).raise ev
  cases i with
  | crc8Step c b => cases h; exact hs.setUnitOut _
  | crc8 seed data => cases h; exact hs.setUnitOut _
  | unpack p => cases h; exact hs.setUnitOut _
  | validate cand => cases h; exact hs.setUnitOut _
  | syncWait => cases h; exact hs
  | syncDrop b => exact takeIf_keeps hs (fun _ => hs.dropEffect) h
  | syncExtract n => exact takeIf_keeps hs (fun _ => hs.extractEffect n) h
  | frameMalformed f => exact takeIf_keeps hs (fun _ => frame _ _) h
  | valCrcFail cand => exact takeIf_keeps hs (fun _ => frame _ _) h
  | valIgnore cand => exact takeIf_keeps hs (fun _ => frame _ _) h
  | valRcBadLen cand => exact takeIf_keeps hs (fun _ => frame _ _) h
  | valRc cand => exact execValRc_keeps_bounded hs h
  | dispatch new => exact takeIf_keeps hs (fun _ => hs.dispatchSet new) h
  | deliver d => exact takeIf_keeps hs (fun _ => hs.popPend.record _) h
  | feed b => exact takeIf_keeps hs (fun hr => (hs.append hr b).record _) h
  | core => exact execCore_keeps_bounded hs h
  | reset => cases h; exact bounded_of_empty rfl rfl

/-- A step that answers a next state has run an operation or used the turn up. -/
theorem step_next_cases {s t : State} (h : step s = .next t) :
    (∃ i, fetch s = .run i ∧ exec i s.advance = .next t) ∨ (fetch s = .hold ∧ t = s.advance) := by
  unfold step at h
  split at h
  · exact .inl ⟨_, ‹_›, h⟩
  · cases h
    exact .inr ⟨‹_›, rfl⟩
  · cases h

/-- Settles O45: every update an operation makes keeps R30's bounds, and a step adds only the use of a turn. -/
theorem stepKeepsBounded : Obligations.StepKeepsBounded := by
  refine ⟨fun _ _ _ => exec_keeps_bounded, fun s t hs h => ?_⟩
  obtain ⟨i, -, hi⟩ | ⟨-, rfl⟩ := step_next_cases h
  · exact exec_keeps_bounded hs.advance hi
  · exact hs.advance

/-! ## The reset state -/

/-- FEED is enabled on an empty buffer, since the capacity is at least the longest frame (R7). -/
theorem inReady_of_empty {s : State} (hb : s.buf = []) : inReady false s = true := by
  rw [inReady_iff, hb]
  exact Nat.lt_of_lt_of_le (by decide) maxFrame_le_bufCap

theorem zeroChannels_getElem (i : Fin 16) : zeroChannels[i] = 0 :=
  Vector.getElem_replicate i.isLt

/-- Settles O34: the values by definition, and FEED's room from the capacity's bound. -/
theorem resetStateValues : Obligations.ResetStateValues :=
  ⟨rfl, zeroChannels_getElem, rfl, inReady_of_empty rfl, rfl, syncAction_nil⟩

/-- Nothing fed, nothing delivered: both sides of R207 run the same bytes from `last` all zeros. -/
theorem followsStream_reset (choices : List Turn) : FollowsStream { State.reset with agenda := choices } :=
  fun _ => ⟨rfl, rfl, rfl, rfl⟩

theorem viewFollows_reset (choices : List Turn) : ViewFollows { State.reset with agenda := choices } := rfl

/-- Settles O48, one invariant at a time. -/
theorem resetMeetsTheInvariants : Obligations.ResetMeetsTheInvariants :=
  fun choices => ⟨bounded_of_empty rfl rfl, followsStream_reset choices, viewFollows_reset choices⟩

end Sys2Proof.Safety

namespace Sys2Proof.Machine

/-! ## FEED on a full buffer -/

theorem inReady_eq_false_iff (s : State) : inReady false s = false ↔ Config.bufCap ≤ s.buf.length := by
  rw [← Bool.not_eq_true, inReady_iff, Nat.not_lt]

theorem exec_feed (b : Byte) (s : State) :
    exec (.feed b) s = takeIf (inReady false s) s ((s.append b).record (.input b)) := rfl

/-- A FEED that is not enabled holds the state (R208). -/
theorem exec_feed_of_not_ready {s : State} (h : inReady false s = false) (b : Byte) :
    exec (.feed b) s = .next s := by
  rw [exec_feed, h, takeIf_false]

/-- Settles O29: a buffer at capacity leaves `in_ready` down, and then FEED's guard keeps the state. -/
theorem fullBufferHoldsTheProducer : Obligations.FullBufferHoldsTheProducer := by
  intro s b hfull
  have hready : inReady false s = false := (inReady_eq_false_iff s).2 hfull.ge
  exact ⟨hready, exec_feed_of_not_ready hready b⟩

end Sys2Proof.Machine

/-! SUPPORT. Proofs of the statements about the encoding (spec/30_encoding.md): what the head of the ByteBuffer decodes
to and back (R60 to R66), the sixteen packed values (R64, R124), and the operand words of the ports and units. -/

namespace Sys2Proof.Machine

/-! ## The length field (R69) -/

/-- Settles O10: the decision compares with and answers `L + 2` on natural numbers, and an Extract's bounds hold for
every buffer. -/
theorem longLengthFieldsDoNotWrap : Obligations.LongLengthFieldsDoNotWrap :=
  ⟨fun body h => (syncAction_addr 254 body).trans (if_pos h),
    fun body h => (syncAction_addr 254 body).trans (if_neg (Nat.not_lt.2 h)),
    fun body h => (syncAction_addr 255 body).trans (if_pos h),
    fun body h => (syncAction_addr 255 body).trans (if_neg (Nat.not_lt.2 h)),
    fun _ _ h => have ⟨hlo, hhi, _⟩ := extract_bounds h; ⟨hlo, hhi⟩⟩

/-! ## The sixteen packed values (R64, R124) -/

/-- The OR of single bits, each shifted to its own place, holds the bit `f j` at place `j`: the shape of R120's loop. -/
theorem getLsbD_foldl_or_shifted_bits {w : Nat} (f : Nat → Bool) (n j : Nat) (hj : j < w) :
    ((List.range n).foldl
      (fun (v : BitVec w) k => v ||| ((BitVec.ofBool (f k)).setWidth w <<< k)) 0).getLsbD j =
      (decide (j < n) && f j) := by
  induction n with
  | zero => simp
  | succ n ih =>
    rw [List.range_succ, List.foldl_append, List.foldl_cons, List.foldl_nil, BitVec.getLsbD_or, ih]
    obtain hlt | rfl | hgt := Nat.lt_trichotomy j n
    · simp [hlt, Nat.lt_succ_of_lt hlt]
    · simp [hj]
    · have hne : j - n ≠ 0 := by omega
      simp [hne, Nat.not_lt.2 hgt.le, Nat.not_lt.2 (Nat.succ_le_of_lt hgt), BitVec.getLsbD_ofBool]

/-- R121: bit `k` of channel `i` is bit `11 * i + k` of the payload's stream. -/
theorem channelOf_getLsbD (p : List Byte) (i : Nat) {k : Nat} (hk : k < 11) :
    (channelOf p i).getLsbD k = streamBit p (11 * i + k) := by
  rw [channelOf, getLsbD_foldl_or_shifted_bits _ _ _ hk, decide_eq_true hk, Bool.true_and]

/-- Fields of `w` bits added up side by side, the first one lowest: the shape of R124's 176-bit integer. -/
def fieldSum {w n : Nat} (d : Fin n → BitVec w) : Nat :=
  (List.finRange n).foldl (fun a i => a + ((d i).toNat <<< (w * i.val))) 0

theorem packedInt_eq_fieldSum (cs : ChannelSet) : packedInt cs = fieldSum (fun i => cs[i]) := rfl

theorem fieldSum_succ {w n : Nat} (d : Fin (n + 1) → BitVec w) :
    fieldSum d = 2 ^ (w * n) * (d (Fin.last n)).toNat + fieldSum (fun i : Fin n => d i.castSucc) := by
  rw [fieldSum, List.finRange_succ_last, List.foldl_append, List.foldl_map, List.foldl_cons, List.foldl_nil,
    Fin.val_last, Nat.shiftLeft_eq, Nat.mul_comm, Nat.add_comm]
  rfl

theorem fieldSum_lt {w n : Nat} (d : Fin n → BitVec w) : fieldSum d < 2 ^ (w * n) := by
  induction n with
  | zero => simp [fieldSum]
  | succ n ih =>
    have hlow := ih (fun i => d i.castSucc)
    calc fieldSum d
        < 2 ^ (w * n) * ((d (Fin.last n)).toNat + 1) := by rw [fieldSum_succ, Nat.mul_succ]; omega
      _ ≤ 2 ^ (w * n) * 2 ^ w := Nat.mul_le_mul_left _ (d (Fin.last n)).isLt
      _ = 2 ^ (w * (n + 1)) := by rw [← Nat.pow_add, Nat.mul_succ]

/-- Each field keeps its own bits, since the fields below it sum to less than its place. -/
theorem fieldSum_testBit {w n : Nat} (d : Fin n → BitVec w) (i : Fin n) {k : Nat} (hk : k < w) :
    (fieldSum d).testBit (w * i.val + k) = (d i).getLsbD k := by
  induction n with
  | zero => exact i.elim0
  | succ n ih =>
    rw [fieldSum_succ, Nat.testBit_two_pow_mul_add _ (fieldSum_lt _)]
    cases i using Fin.lastCases with
    | last => simp [BitVec.getLsbD]
    | cast i =>
      have hin : w * i.val + k < w * n :=
        calc w * i.val + k < w * (i.val + 1) := by rw [Nat.mul_succ]; omega
          _ ≤ w * n := Nat.mul_le_mul_left _ i.isLt
      rw [Fin.val_castSucc, if_pos hin]
      exact ih (fun i => d i.castSucc) i

theorem packedInt_testBit (cs : ChannelSet) (i : Fin 16) {k : Nat} (hk : k < 11) :
    (packedInt cs).testBit (11 * i.val + k) = cs[i].getLsbD k := by
  rw [packedInt_eq_fieldSum, fieldSum_testBit _ i hk]

@[simp] theorem pack_length (cs : ChannelSet) : (pack cs).length = Config.payloadRc := by
  simp [pack]

/-- PACK's stream is the bits of the 176-bit integer, from the least significant one on. -/
theorem streamBit_pack (cs : ChannelSet) {j : Nat} (hj : j < 176) :
    streamBit (pack cs) j = (packedInt cs).testBit j := by
  have hbyte : j >>> 3 = j / 8 := Nat.shiftRight_eq_div_pow j 3
  have hbit : j &&& 7 = j % 8 := Nat.and_two_pow_sub_one_eq_mod j 3
  have hlt : j / 8 < Config.payloadRc := by unfold Config.payloadRc; omega
  have hmod : j % 8 < 8 := Nat.mod_lt j (by decide)
  rw [streamBit, hbyte, hbit, pack, List.getD_eq_getElem _ _ (by simpa using hlt), List.getElem_map,
    List.getElem_range, BitVec.getLsbD_ofNat, decide_eq_true hmod, Bool.true_and, Nat.testBit_shiftRight,
    Nat.div_add_mod]

/-- R124, the half that decoding DISPATCH's word needs: UNPACK undoes PACK. -/
theorem unpack_pack (cs : ChannelSet) : unpack (pack cs) = some cs := by
  rw [unpack, if_neg (not_not.2 (pack_length cs)), Option.some.injEq]
  ext i hi : 1
  rw [Vector.getElem_ofFn]
  apply BitVec.eq_of_getLsbD_eq
  intro k hk
  rw [channelOf_getLsbD _ _ hk, streamBit_pack cs (by omega)]
  exact packedInt_testBit cs ⟨i, hi⟩ hk

/-! ## The operation of a candidate and of a raw frame (R66 rows 6 to 10) -/

/-- R66 rows 7 to 10: the outcome code of the candidate alone tells which operation carries it. -/
theorem decodeCandidate_cases (cand : Candidate) :
    (verdictStatus (validate cand) = .crcFail ∧ decodeCandidate cand = .valCrcFail cand) ∨
      (verdictStatus (validate cand) = .typeIgnored ∧ decodeCandidate cand = .valIgnore cand) ∨
      (verdictStatus (validate cand) = .rcBadLength ∧ decodeCandidate cand = .valRcBadLen cand) ∨
      (verdictStatus (validate cand) = .rcDecoded ∧ decodeCandidate cand = .valRc cand) := by
  unfold decodeCandidate
  cases validate cand <;> simp [verdictStatus]

theorem encode_decodeCandidate (cand : Candidate) : encode (decodeCandidate cand) = rawFrame cand := by
  obtain ⟨-, h⟩ | ⟨-, h⟩ | ⟨-, h⟩ | ⟨-, h⟩ := decodeCandidate_cases cand <;> rw [h] <;> rfl

theorem wellFormed_decodeCandidate {cand : Candidate} (hfit : payloadFits cand = true) :
    wellFormed (decodeCandidate cand) = true := by
  obtain ⟨hs, h⟩ | ⟨hs, h⟩ | ⟨hs, h⟩ | ⟨hs, h⟩ := decodeCandidate_cases cand <;>
    simp [h, wellFormed, hfit, hs]

theorem payloadFits_iff (cand : Candidate) : payloadFits cand = true ↔ cand.payload.length ≤ 253 :=
  decide_eq_true_iff

theorem malformedFrame_iff (f : List Byte) :
    malformedFrame f = true ↔
      ∃ l body, f = Config.addr :: l :: body ∧ l.toNat < 2 ∧ body.length = l.toNat := by
  match f with
  | [] | [_] => simp [malformedFrame]
  | a :: l :: body => simp [malformedFrame, and_assoc]

/-- A raw frame's bytes select an operation that is well-formed and whose word they are. -/
theorem wellFormed_and_encode_decodeFrame {l : Byte} {body : List Byte} (hl : body.length = l.toNat) :
    wellFormed (decodeFrame (Config.addr :: l :: body)) = true ∧
      encode (decodeFrame (Config.addr :: l :: body)) = Config.addr :: l :: body := by
  unfold decodeFrame
  cases hc : candidateOf (Config.addr :: l :: body) with
  | none => exact ⟨(malformedFrame_iff _).2 ⟨l, body, rfl, (candidateOf_eq_none_iff hl).1 hc, hl⟩, rfl⟩
  | some cand =>
    obtain ⟨hraw, hlen⟩ := rawFrame_of_candidateOf hl hc
    have hfit : cand.payload.length ≤ 253 := by have := l.isLt; omega
    exact ⟨wellFormed_decodeCandidate ((payloadFits_iff cand).2 hfit), (encode_decodeCandidate cand).trans hraw⟩

/-! ## The head of the ByteBuffer (R66) -/

/-- What a buffer can select, R66 rows 2 to 10. -/
theorem decodeHead_cases (buf : List Byte) :
    decodeHead buf = .syncWait ∨
      (∃ b rest, b ≠ Config.addr ∧ buf = b :: rest ∧ decodeHead buf = .syncDrop b) ∨
      ∃ l body rest, body.length = l.toNat ∧ buf = Config.addr :: l :: body ++ rest ∧
        decodeHead buf = decodeFrame (Config.addr :: l :: body) := by
  cases h : syncAction buf with
  | wait => exact .inl (decodeHead_of_wait h)
  | drop =>
    obtain ⟨b, rest, rfl, hb⟩ := (syncAction_eq_drop_iff buf).1 h
    exact .inr (.inl ⟨b, rest, hb, rfl, decodeHead_of_drop hb⟩)
  | extract n =>
    obtain ⟨l, tail, rfl, rfl, hl⟩ := (syncAction_eq_extract_iff buf n).1 h
    exact .inr (.inr ⟨l, tail.take l.toNat, tail.drop l.toNat, List.length_take_of_le hl,
      by simp, decodeHead_of_extract h⟩)

theorem wellFormed_syncDrop_iff (b : Byte) : wellFormed (.syncDrop b) = true ↔ b ≠ Config.addr :=
  bne_iff_ne

theorem wellFormed_decodeHead (buf : List Byte) : wellFormed (decodeHead buf) = true := by
  obtain h | ⟨b, rest, hb, -, h⟩ | ⟨l, body, rest, hl, -, h⟩ := decodeHead_cases buf <;> rw [h]
  · rfl
  · exact (wellFormed_syncDrop_iff b).2 hb
  · exact (wellFormed_and_encode_decodeFrame hl).1

/-- Every buffer begins with the word of the operation it selects. -/
theorem exists_eq_encode_decodeHead_append (buf : List Byte) : ∃ rest, buf = encode (decodeHead buf) ++ rest := by
  obtain h | ⟨b, rest, -, rfl, h⟩ | ⟨l, body, rest, hl, rfl, h⟩ := decodeHead_cases buf <;> rw [h]
  · exact ⟨buf, rfl⟩
  · exact ⟨rest, rfl⟩
  · exact ⟨rest, by rw [(wellFormed_and_encode_decodeFrame hl).2]⟩

/-- A raw frame that fits selects the operation of its candidate's outcome code, whatever follows. -/
theorem decodeHead_rawFrame_of_status {cand : Candidate} {st : Status} {i : Instr}
    (hwf : (payloadFits cand && verdictStatus (validate cand) == st) = true)
    (hi : verdictStatus (validate cand) = st → decodeCandidate cand = i) (rest : List Byte) :
    decodeHead (rawFrame cand ++ rest) = i := by
  rw [Bool.and_eq_true, beq_iff_eq, payloadFits_iff] at hwf
  exact (decodeHead_rawFrame_append hwf.1 rest).trans (hi hwf.2)

/-- The word of a well-formed head operation selects that operation, whatever follows (R147). SYNC.WAIT's word is empty
and selects nothing by itself. -/
theorem decodeHead_encode_append {i : Instr} (hwf : wellFormed i = true) (hfmt : formatOf i = .head)
    (hne : i ≠ .syncWait) (rest : List Byte) : decodeHead (encode i ++ rest) = i := by
  cases i with
  | syncWait => exact absurd rfl hne
  | syncDrop b => exact decodeHead_of_drop ((wellFormed_syncDrop_iff b).1 hwf)
  | frameMalformed f =>
    obtain ⟨l, body, rfl, h2, hl⟩ := (malformedFrame_iff f).1 hwf
    exact decodeHead_malformed_append hl h2 rest
  | valCrcFail cand =>
    exact decodeHead_rawFrame_of_status hwf (fun hs => by simpa [hs] using decodeCandidate_cases cand) rest
  | valIgnore cand =>
    exact decodeHead_rawFrame_of_status hwf (fun hs => by simpa [hs] using decodeCandidate_cases cand) rest
  | valRcBadLen cand =>
    exact decodeHead_rawFrame_of_status hwf (fun hs => by simpa [hs] using decodeCandidate_cases cand) rest
  | valRc cand =>
    exact decodeHead_rawFrame_of_status hwf (fun hs => by simpa [hs] using decodeCandidate_cases cand) rest
  | _ => cases hfmt

/-- Settles O44: the first half by the cases of what a buffer selects, the second by those of the operation. -/
theorem headWordIsAPrefixOfTheBuffer : Obligations.HeadWordIsAPrefixOfTheBuffer := by
  refine ⟨exists_eq_encode_decodeHead_append, fun i rest hwf hfmt hne => ?_⟩
  exact congrArg Except.ok (decodeHead_encode_append hwf hfmt hne rest)

theorem decode_head_encode {i : Instr} (hwf : wellFormed i = true) (hfmt : formatOf i = .head)
    (hne : i ≠ .syncWait) : decode .head (encode i) = .ok i := by
  have h := headWordIsAPrefixOfTheBuffer.2 i [] hwf hfmt hne
  rwa [List.append_nil] at h

/-! ## The synchronizer's view (R140 to R143) -/

theorem decodeSync_of_wait {buf : List Byte} (h : syncAction buf = .wait) : decodeSync buf = .syncWait := by
  cases buf with
  | nil => rfl
  | cons b rest => simp [decodeSync, h]

theorem decodeSync_of_drop {b : Byte} {rest : List Byte} (h : b ≠ Config.addr) :
    decodeSync (b :: rest) = .syncDrop b := by
  simp [decodeSync, syncAction_cons_of_ne _ _ h]

theorem decodeSync_of_extract {buf : List Byte} {n : Nat} (h : syncAction buf = .extract n) :
    decodeSync buf = .syncExtract n := by
  cases buf with
  | nil => simp at h
  | cons b rest => simp [decodeSync, h]

theorem wellFormed_syncExtract_iff (n : Nat) :
    wellFormed (.syncExtract n) = true ↔ 2 ≤ n ∧ n ≤ Config.maxFrame := by
  simp [wellFormed]

theorem wellFormed_decodeSync (buf : List Byte) : wellFormed (decodeSync buf) = true := by
  cases h : syncAction buf with
  | wait => rw [decodeSync_of_wait h]; rfl
  | drop =>
    obtain ⟨b, rest, rfl, hb⟩ := (syncAction_eq_drop_iff buf).1 h
    rw [decodeSync_of_drop hb]
    exact (wellFormed_syncDrop_iff b).2 hb
  | extract n =>
    obtain ⟨hlo, hhi, -⟩ := extract_bounds h
    rw [decodeSync_of_extract h]
    exact (wellFormed_syncExtract_iff n).2 ⟨hlo, hhi⟩

theorem decodeSync_encode {n : Nat} (hwf : wellFormed (.syncExtract n) = true) :
    decodeSync (encode (.syncExtract n)) = .syncExtract n := by
  obtain ⟨hlo, hhi⟩ := (wellFormed_syncExtract_iff n).1 hwf
  have hfield : (BitVec.ofNat 8 (n - 2)).toNat = n - 2 :=
    Nat.mod_eq_of_lt (by unfold Config.maxFrame at hhi; omega)
  refine decodeSync_of_extract ((syncAction_eq_extract_iff _ _).2 ⟨_, _, rfl, ?_, ?_⟩)
  · omega
  · simp [hfield]

/-! ## The operand words of the ports and of VALIDATE -/

theorem wellFormed_deliver_iff (d : Delta) : wellFormed (.deliver d) = true ↔ d.value.toNat < 2048 :=
  decide_eq_true_iff

theorem append_byte_toNat (hi lo : Byte) : (hi ++ lo).toNat = 256 * hi.toNat + lo.toNat := by
  rw [BitVec.toNat_append, Nat.shiftLeft_eq, Nat.mul_comm, ← Nat.two_pow_add_eq_or_of_lt lo.isLt]

/-- The two bytes of `out_value` put together again. -/
theorem high_append_low_byte (v : BitVec 16) : v.extractLsb' 8 8 ++ v.extractLsb' 0 8 = v := by
  rw [BitVec.extractLsb'_append_extractLsb'_eq_extractLsb' (by decide)]
  exact BitVec.extractLsb'_eq_self

/-- R181: the word of a delta within 2048 has its reserved bits 0 and gives the index and the value back. -/
theorem decodeOutput_encode {d : Delta} (h : d.value.toNat < 2048) :
    decodeOutput (encode (.deliver d)) = .ok (.deliver d) := by
  have hindex : (BitVec.ofNat 8 d.index.val).toNat = d.index.val :=
    Nat.mod_eq_of_lt (by have := d.index.isLt; omega)
  have hhigh : (d.value.extractLsb' 8 8).toNat < 8 := by
    have hv := append_byte_toNat (d.value.extractLsb' 8 8) (d.value.extractLsb' 0 8)
    rw [high_append_low_byte] at hv
    omega
  rw [encode, decodeOutput, dif_pos ⟨hindex.trans_lt d.index.isLt, hhigh⟩]
  simp only [hindex, high_append_low_byte]

theorem wellFormed_of_decodeOutput {bytes : List Byte} {i : Instr} (h : decodeOutput bytes = .ok i) :
    wellFormed i = true := by
  unfold decodeOutput at h
  split at h
  · next hi lo =>
    split at h
    · next hbits =>
      cases h
      have hlow := lo.isLt
      have hv := append_byte_toNat hi lo
      exact (wellFormed_deliver_iff _).2 (show (hi ++ lo).toNat < 2048 by omega)
    · cases h
  · cases h

theorem decodeValidate_encode {cand : Candidate} (h : cand.payload.length ≤ 253) :
    decodeValidate (encode (.validate cand)) = .ok (.validate cand) := by
  simp [encode, decodeValidate, Nat.lt_succ_of_le h]

theorem wellFormed_of_decodeValidate {bytes : List Byte} {i : Instr} (h : decodeValidate bytes = .ok i) :
    wellFormed i = true := by
  unfold decodeValidate at h
  split at h
  · next rest =>
    split at h
    · split at h
      · next hlen =>
        cases h
        exact (payloadFits_iff _).2 (by rw [List.length_dropLast]; omega)
      · cases h
    · cases h
  · cases h

theorem eq_reset_of_decodeHost {bytes : List Byte} {i : Instr} (h : decodeHost bytes = .ok i) : i = .reset := by
  unfold decodeHost at h
  split at h
  · split at h
    · cases h; rfl
    · split at h <;> cases h
  · cases h

/-! ## Every format -/

/-- Settles O43, format by format: the formats whose operations carry no operand check need no more than that the
decoder's answer is of that operation. -/
theorem decodedOperationsAreWellFormed : Obligations.DecodedOperationsAreWellFormed := by
  intro fmt bytes i h
  cases fmt with
  | crc8Step | crc8 | dispatch | input | core =>
    dsimp only [decode] at h
    split at h <;> cases h
    rfl
  | unpack => cases h; rfl
  | validate => exact wellFormed_of_decodeValidate h
  | sync => cases h; exact wellFormed_decodeSync bytes
  | head => cases h; exact wellFormed_decodeHead bytes
  | output => exact wellFormed_of_decodeOutput h
  | host =>
    rw [eq_reset_of_decodeHost h]
    rfl

/-- Settles O42, operation by operation; the words at the head of the buffer go through O44's second half. -/
theorem decodeOfEncodeIsTheOperation : Obligations.DecodeOfEncodeIsTheOperation := by
  intro i hwf
  cases i with
  | crc8Step | crc8 | unpack | syncWait | feed | core | reset => rfl
  | syncDrop | frameMalformed | valCrcFail | valIgnore | valRcBadLen | valRc =>
    exact decode_head_encode hwf rfl (by simp)
  | syncExtract n => exact congrArg Except.ok (decodeSync_encode hwf)
  | validate cand => exact decodeValidate_encode ((payloadFits_iff cand).1 hwf)
  | dispatch new => simp [formatOf, encode, decode, unpack_pack]
  | deliver d => exact decodeOutput_encode ((wellFormed_deliver_iff d).1 hwf)

/-! ## Words of the table (R65) -/

@[simp] theorem wordBytes_length (n w : Nat) : (wordBytes n w).length = n := by
  induction n with
  | zero => rfl
  | succ n ih => rw [wordBytes, List.length_cons, ih]

/-- A head word stands whole at the head of the padded frame, with zeros after it. -/
theorem paddedFrame_eq {nbits : Nat} (w : Nat) (h : (nbits + 7) / 8 ≤ Config.maxFrame) :
    paddedFrame nbits w =
      wordBytes ((nbits + 7) / 8) w ++ List.replicate (Config.maxFrame - (nbits + 7) / 8) 0 := by
  rw [paddedFrame, List.take_append, wordBytes_length, List.take_of_length_le (by simpa using h),
    List.take_replicate, Nat.min_eq_left (Nat.sub_le _ _)]

/-- A 24-bit word of the table selects the operation its three bytes begin with. -/
theorem decodeTableWord_24 (w : Nat) :
    decodeTableWord 24 w = some (decodeHead (wordBytes 3 w ++ List.replicate 254 0)) :=
  congrArg (fun buf => some (decodeHead buf)) (paddedFrame_eq w (by decide))

/-- Settles O41: the port and unit words by computation, the head words as the words of well-formed operations, with
zeros after them where the table's word is padded. -/
theorem tableWordsDecodeAsPrinted : Obligations.TableWordsDecodeAsPrinted := by
  refine ⟨?_, ?_, rfl, rfl, rfl, ?_, ?_, ?_, rfl⟩
  · rw [decodeTableWord_24]
    exact congrArg some (decodeHead_encode_append (i := .frameMalformed [0xC8, 0x00]) rfl rfl (by simp) (0x00 :: _))
  · rw [decodeTableWord_24]
    exact congrArg some (decodeHead_encode_append (i := .syncDrop 0x00) rfl rfl (by simp) (0x00 :: 0x00 :: _))
  · exact decode_head_encode (i := .valRcBadLen ⟨0x16, [], 0xD3⟩) (by decide +kernel) rfl (by simp)
  · exact decode_head_encode (i := .valCrcFail ⟨0x16, [], 0x00⟩) (by decide +kernel) rfl (by simp)
  · exact decode_head_encode (i := .valIgnore ⟨0x14, [], 0xAC⟩) (by decide +kernel) rfl (by simp)

end Sys2Proof.Machine

/-! SUPPORT. Proofs of the statements about the CRC8 Engine (spec/40_crc8.md): the eight iterations on 8 bits and on
unbounded integers (R100, R102), their linearity over GF(2) (R105), the table (R104), and CRC8 as a left fold of the step
(R101, R103); with the frame of the four combinational functions. -/

namespace Sys2Proof.Machine

/-! ## The combinational functions write `unitOut` alone (log entry 5) -/

theorem exec_crc8Step (c b : Byte) (s : State) :
    exec (.crc8Step c b) s = .next (s.setUnitOut (.crc (crc8Step c b))) := rfl

theorem exec_crc8 (seed : Byte) (data : List Byte) (s : State) :
    exec (.crc8 seed data) s = .next (s.setUnitOut (.crc (crc8 seed data))) := rfl

theorem exec_unpack (p : List Byte) (s : State) :
    exec (.unpack p) s = .next (s.setUnitOut (.channels (unpack p))) := rfl

theorem exec_validate (cand : Candidate) (s : State) :
    exec (.validate cand) s =
      .next (s.setUnitOut (.verdict (verdictStatus (validate cand)) (verdictChannels (validate cand)))) := rfl

theorem exists_exec_eq_setUnitOut {i : Instr} (s : State)
    (h : formatOf i = .crc8Step ∨ formatOf i = .crc8 ∨ formatOf i = .unpack ∨ formatOf i = .validate) :
    ∃ v, exec i s = .next (s.setUnitOut v) := by
  cases i with
  | crc8Step c b => exact ⟨_, exec_crc8Step c b s⟩
  | crc8 seed data => exact ⟨_, exec_crc8 seed data s⟩
  | unpack p => exact ⟨_, exec_unpack p s⟩
  | validate cand => exact ⟨_, exec_validate cand s⟩
  | _ => simp [formatOf] at h

/-- Settles O56: whichever of the four functions runs, its next state is a `setUnitOut` of the state before. -/
theorem combinationalFunctionsWriteNoState : Obligations.CombinationalFunctionsWriteNoState := by
  intro i s t hfmt ht
  obtain ⟨v, hv⟩ := exists_exec_eq_setUnitOut s hfmt
  cases hv.symm.trans ht
  exact ⟨rfl, rfl, rfl, rfl, rfl⟩

/-! ## One iteration, and eight (R100) -/

/-- The polynomial an iteration adds to the shifted register: `POLY` where bit 7 was set, nothing otherwise. -/
def crcFeedback (b : Bool) : Byte :=
  if b then Config.poly else 0

theorem crcBit_eq (v : Byte) : crcBit v = v <<< 1 ^^^ crcFeedback (v.getLsbD 7) := by
  unfold crcBit crcFeedback
  split <;> simp

theorem crcFeedback_xor (a b : Bool) : crcFeedback (a ^^ b) = crcFeedback a ^^^ crcFeedback b := by
  cases a <;> cases b <;> rfl

theorem crcBit_zero : crcBit 0 = 0 := rfl

theorem crcBit_xor (v w : Byte) : crcBit (v ^^^ w) = crcBit v ^^^ crcBit w := by
  rw [crcBit_eq, crcBit_eq, crcBit_eq, BitVec.shiftLeft_xor_distrib, BitVec.getLsbD_xor, crcFeedback_xor]
  ac_rfl

/-- Bit 0 of an iteration's result is the bit shifted out, since `POLY` is odd; the other seven are then the shift's. -/
theorem eq_zero_of_crcBit_eq_zero {v : Byte} (h : crcBit v = 0) : v = 0 := by
  rw [crcBit_eq] at h
  cases hv : v.getLsbD 7 with
  | true =>
    rw [hv] at h
    have hbit : (v <<< 1 ^^^ crcFeedback true).getLsbD 0 = true := by simp [crcFeedback, Config.poly]
    rw [h] at hbit
    exact absurd hbit (by decide)
  | false =>
    rw [hv] at h
    have hshift : v <<< 1 = 0 := by simpa [crcFeedback] using h
    apply BitVec.eq_of_getLsbD_eq
    intro k hk
    obtain rfl | hlt : k = 7 ∨ k + 1 < 8 := by omega
    · simpa using hv
    · calc v.getLsbD k
          = (v <<< 1).getLsbD (k + 1) := by rw [BitVec.getLsbD_shiftLeft]; simp [hlt]
        _ = (0 : Byte).getLsbD k := by rw [hshift]; simp

theorem crcBits_zero (k : Nat) : crcBits k 0 = 0 := by
  induction k with
  | zero => rfl
  | succ k ih => rw [crcBits, crcBit_zero, ih]

theorem crcBits_xor (k : Nat) (v w : Byte) : crcBits k (v ^^^ w) = crcBits k v ^^^ crcBits k w := by
  induction k generalizing v w with
  | zero => rfl
  | succ k ih => rw [crcBits, crcBits, crcBits, crcBit_xor, ih]

theorem eq_zero_of_crcBits_eq_zero {k : Nat} {v : Byte} (h : crcBits k v = 0) : v = 0 := by
  induction k generalizing v with
  | zero => exact h
  | succ k ih => exact eq_zero_of_crcBit_eq_zero (ih h)

/-! ## The step: a function of `c ^ b`, linear and injective (R100, R104, R105) -/

theorem crc8Step_eq_zero_seed (c b : Byte) : crc8Step c b = crc8Step 0 (c ^^^ b) := by
  simp [crc8Step]

theorem crc8Step_congr {c b c' b' : Byte} (h : c ^^^ b = c' ^^^ b') : crc8Step c b = crc8Step c' b' :=
  congrArg (crcBits 8) h

@[simp] theorem crc8Step_self (c : Byte) : crc8Step c c = 0 := by
  rw [crc8Step, BitVec.xor_self]
  exact crcBits_zero 8

theorem crc8Step_xor (c₁ c₂ b₁ b₂ : Byte) :
    crc8Step (c₁ ^^^ c₂) (b₁ ^^^ b₂) = crc8Step c₁ b₁ ^^^ crc8Step c₂ b₂ := by
  have hswap : c₁ ^^^ c₂ ^^^ (b₁ ^^^ b₂) = (c₁ ^^^ b₁) ^^^ (c₂ ^^^ b₂) := by ac_rfl
  rw [crc8Step, hswap, crcBits_xor]
  rfl

theorem crc8Step_eq_zero_iff (c b : Byte) : crc8Step c b = 0 ↔ c = b := by
  refine ⟨fun h => BitVec.xor_eq_zero_iff.1 (eq_zero_of_crcBits_eq_zero h), ?_⟩
  rintro rfl
  exact crc8Step_self c

/-- Two bytes with equal results differ, by linearity, by a byte whose result is 0, and 0 alone is such a byte. -/
theorem crc8Step_injective (c : Byte) : Function.Injective (crc8Step c) := by
  intro x y h
  have hxor : crc8Step 0 (x ^^^ y) = 0 := by
    have := crc8Step_xor c c x y
    rwa [h, BitVec.xor_self, BitVec.xor_self] at this
  exact BitVec.xor_eq_zero_iff.1 ((crc8Step_eq_zero_iff 0 _).1 hxor).symm

/-! ## The unbounded register of R100 and the 8-bit register of R102 -/

theorem ofNat_shiftLeft_one {w : Nat} (v : Nat) : BitVec.ofNat w (v <<< 1) = BitVec.ofNat w v <<< 1 := by
  apply BitVec.eq_of_toNat_eq
  simp [Nat.shiftLeft_eq]

/-- R102: the low 8 bits of an iteration depend on the low 8 bits alone. -/
theorem ofNat_crcBitWide (v : Nat) : BitVec.ofNat 8 (crcBitWide v) = crcBit (BitVec.ofNat 8 v) := by
  have htest : (BitVec.ofNat 8 v).getLsbD 7 = v.testBit 7 := BitVec.getLsbD_ofNat 8 v 7
  rw [crcBit, crcBitWide, htest]
  split
  · rw [BitVec.ofNat_xor, ofNat_shiftLeft_one]
    rfl
  · exact ofNat_shiftLeft_one v

theorem ofNat_crcBitsWide (k v : Nat) : BitVec.ofNat 8 (crcBitsWide k v) = crcBits k (BitVec.ofNat 8 v) := by
  induction k generalizing v with
  | zero => rfl
  | succ k ih => rw [crcBitsWide, crcBits, ih, ofNat_crcBitWide]

theorem crc8StepWide_eq (c b : Byte) : crc8StepWide c.toNat b.toNat = (crc8Step c b).toNat :=
  calc crcBitsWide 8 (c.toNat ^^^ b.toNat) &&& 2 ^ 8 - 1
      = (BitVec.ofNat 8 (crcBitsWide 8 (c ^^^ b).toNat)).toNat := by
        rw [Nat.and_two_pow_sub_one_eq_mod, BitVec.toNat_xor, BitVec.toNat_ofNat]
    _ = (crcBits 8 (c ^^^ b)).toNat := by
        rw [ofNat_crcBitsWide, BitVec.ofNat_toNat, BitVec.setWidth_eq]

/-- Settles O1: the unbounded register agrees modulo 256 at every iteration, and the step reads `c ^ b` alone. -/
theorem crc8StepRunsEightIterations : Obligations.Crc8StepRunsEightIterations :=
  ⟨fun c b s => ⟨crc8Step c b, exec_crc8Step c b s, rfl, (crc8StepWide_eq c b).symm⟩,
    crc8Step_self, fun _ _ _ _ => crc8Step_congr, by decide, by decide⟩

/-! ## The table (R104) -/

/-- The printed entries, each computed from R100 by evaluation, in the order of the bytes. -/
theorem crcTable_eq_ofFn : crcTable = List.ofFn fun x : Fin (2 ^ 8) => crc8Step 0 (BitVec.ofFin x) := by
  decide +kernel

theorem crcTable_getElem? (x : Byte) : crcTable[x.toNat]? = some (crc8Step 0 x) := by
  rw [crcTable_eq_ofFn, List.getElem?_ofFn, dif_pos x.isLt]
  rfl

theorem crcTable_length : crcTable.length = 256 := by
  rw [crcTable_eq_ofFn, List.length_ofFn]

/-- R104: the table is a permutation of the bytes, since the step is injective in its input byte. -/
theorem crcTable_nodup : crcTable.Nodup := by
  rw [crcTable_eq_ofFn, List.nodup_ofFn]
  exact (crc8Step_injective 0).comp fun _ _ => BitVec.ofFin.inj

theorem crc8Step_zero_eq_self_iff (x : Byte) : crc8Step 0 x = x ↔ x = 0x00 ∨ x = 0xB3 := by
  decide +revert +kernel

/-- Settles O2: every printed entry is the step's value, and the step's laws are then the table's. -/
theorem crc8StepReadsTheTable : Obligations.Crc8StepReadsTheTable := by
  refine ⟨fun c b => ?_, crcTable_getElem?, crcTable_length, crcTable_nodup, rfl, fun x => ?_⟩
  · rw [crcTable_getElem?, ← crc8Step_eq_zero_seed]
  · rw [crcTable_getElem?, Option.some.injEq, crc8Step_zero_eq_self_iff]

/-! ## CRC8 of a sequence (R101, R103, R105) -/

@[simp] theorem crc8_nil (s : Byte) : crc8 s [] = s := rfl

@[simp] theorem crc8_cons (s b : Byte) (m : List Byte) : crc8 s (b :: m) = crc8 (crc8Step s b) m := rfl

theorem crc8_eq_foldl (s : Byte) (m : List Byte) : crc8 s m = m.foldl crc8Step s := by
  induction m generalizing s with
  | nil => rfl
  | cons b m ih => exact ih (crc8Step s b)

theorem crc8_append (s : Byte) (a b : List Byte) : crc8 s (a ++ b) = crc8 (crc8 s a) b := by
  simp only [crc8_eq_foldl, List.foldl_append]

theorem crc8_append_self (s : Byte) (m : List Byte) : crc8 s (m ++ [crc8 s m]) = 0 := by
  rw [crc8_append, crc8_cons, crc8Step_self, crc8_nil]

theorem crc8_xor (s₁ s₂ : Byte) {d₁ d₂ : List Byte} (h : d₁.length = d₂.length) :
    crc8 (s₁ ^^^ s₂) (List.zipWith (· ^^^ ·) d₁ d₂) = crc8 s₁ d₁ ^^^ crc8 s₂ d₂ := by
  induction d₁ generalizing s₁ s₂ d₂ with
  | nil =>
    cases List.length_eq_zero_iff.1 h.symm
    rfl
  | cons b₁ d₁ ih =>
    obtain ⟨b₂, d₂, rfl⟩ := List.exists_cons_of_length_eq_add_one h.symm
    rw [List.zipWith_cons_cons, crc8_cons, crc8_cons, crc8_cons, crc8Step_xor, ih _ _ (Nat.succ.inj h)]

/-- Settles O3: the recursion over the data is the left fold. -/
theorem crc8FoldsTheSteps : Obligations.Crc8FoldsTheSteps := by
  refine ⟨fun seed data s => ?_, crc8_nil, by decide +kernel⟩
  rw [exec_crc8, crc8_eq_foldl]
  rfl

/-- Settles O4: a fold over a concatenation starts its second part from the value of its first. -/
theorem crc8IsCompositional : Obligations.Crc8IsCompositional :=
  ⟨fun s a b => (crc8_append s a b).symm, fun t payload => (crc8_append 0x00 [t] payload).symm⟩

/-- Settles O5: the step of a value with itself is 0, and linearity of the step carries over the fold. -/
theorem crc8ResidueAndLinearity : Obligations.Crc8ResidueAndLinearity :=
  ⟨crc8_append_self, fun s₁ s₂ _ _ h => crc8_xor s₁ s₂ h⟩

end Sys2Proof.Machine

/-! SUPPORT. Proofs of the statements about the Channel Unpacker (spec/41_unpacker.md): what UNPACK answers, read bit by
bit (R120 to R122), its integer form and byte formulas (R123), and PACK as its inverse (R124). -/

namespace Sys2Proof.Machine

/-! ## Where a stream bit stands in the payload (R121) -/

theorem streamBit_eq (p : List Byte) (j : Nat) : streamBit p j = (p.getD (j / 8) 0).getLsbD (j % 8) := by
  have hbyte : j >>> 3 = j / 8 := Nat.shiftRight_eq_div_pow j 3
  have hbit : j &&& 7 = j % 8 := Nat.and_two_pow_sub_one_eq_mod j 3
  rw [streamBit, hbyte, hbit]

/-- Byte `b` holds the stream bits `8 * b` to `8 * b + 7`, and nothing above them. -/
theorem getD_testBit (p : List Byte) (b n : Nat) :
    (p.getD b 0).toNat.testBit n = (decide (n < 8) && streamBit p (8 * b + n)) := by
  by_cases hn : n < 8
  · have hdiv : (8 * b + n) / 8 = b := by omega
    have hmod : (8 * b + n) % 8 = n := by omega
    rw [streamBit_eq, hdiv, hmod, decide_eq_true hn, Bool.true_and, BitVec.testBit_toNat]
  · rw [BitVec.testBit_toNat, BitVec.getLsbD_of_ge _ _ (Nat.not_lt.1 hn), decide_eq_false hn, Bool.false_and]

/-- A payload is its stream: two of one length with the same bits are equal. -/
theorem eq_of_streamBit_eq {p q : List Byte} (hlen : p.length = q.length)
    (h : ∀ j < 8 * p.length, streamBit p j = streamBit q j) : p = q := by
  refine List.ext_getElem hlen fun b hp hq => BitVec.eq_of_toNat_eq (Nat.eq_of_testBit_eq fun n => ?_)
  rw [← List.getD_eq_getElem p 0 hp, ← List.getD_eq_getElem q 0 hq, getD_testBit, getD_testBit]
  by_cases hn : n < 8
  · rw [h (8 * b + n) (by omega)]
  · simp [hn]

/-! ## What UNPACK answers (R120, R122) -/

theorem unpack_eq_some_iff (p : List Byte) (cs : ChannelSet) :
    unpack p = some cs ↔ p.length = Config.payloadRc ∧ ∀ i : Fin 16, cs[i] = channelOf p i.val := by
  rw [unpack, ite_not, Option.ite_none_right_eq_some, Option.some.injEq, Vector.ext_iff, Fin.forall_iff]
  simp [eq_comm]

theorem exists_unpack_eq_some {p : List Byte} (h : p.length = Config.payloadRc) :
    ∃ cs : ChannelSet, unpack p = some cs :=
  Option.ne_none_iff_exists'.1 fun hnone => (unpack_eq_none_iff p).1 hnone h

/-- R122: bit `k` of channel `i` is bit `11 * i + k` of the payload's stream. -/
theorem getLsbD_of_unpack {p : List Byte} {cs : ChannelSet} (h : unpack p = some cs) (i : Fin 16) {k : Nat}
    (hk : k < 11) : cs[i].getLsbD k = streamBit p (11 * i.val + k) := by
  rw [((unpack_eq_some_iff p cs).1 h).2 i, channelOf_getLsbD p i hk]

/-- Settles O6: the loop of R120 places each stream bit once, and the two corner cases evaluate. -/
theorem unpackReadsTheBitStream : Obligations.UnpackReadsTheBitStream := by
  refine ⟨exec_unpack, fun p => (unpack_eq_none_iff p).2, fun p hp => ?_, by decide +kernel, by decide +kernel⟩
  obtain ⟨cs, hcs⟩ := exists_unpack_eq_some hp
  refine ⟨cs, hcs, fun i k hk => ?_⟩
  rw [getLsbD_of_unpack hcs i hk, streamBit_eq]

/-! ## The integer form and the byte formulas (R123) -/

/-- R47: the little-endian integer is the sum of the bytes side by side. -/
theorem payloadInt_eq_fieldSum (p : List Byte) :
    payloadInt p = fieldSum (fun j : Fin Config.payloadRc => p.getD j.val 0) := by
  rw [payloadInt, fieldSum, ← List.map_coe_finRange_eq_range, List.foldl_map]

theorem payloadInt_testBit (p : List Byte) {j : Nat} (hj : j < 176) : (payloadInt p).testBit j = streamBit p j := by
  have hlt : j / 8 < Config.payloadRc := by unfold Config.payloadRc; omega
  have hbit := fieldSum_testBit (fun j : Fin Config.payloadRc => p.getD j.val 0) ⟨j / 8, hlt⟩
    (Nat.mod_lt j (by decide : 0 < 8))
  rwa [← payloadInt_eq_fieldSum, Nat.div_add_mod, ← streamBit_eq] at hbit

/-- A channel's value is any integer masked to 11 bits whose low bits are the channel's stream bits. -/
theorem toNat_of_unpack_eq_masked {p : List Byte} {cs : ChannelSet} (h : unpack p = some cs) (i : Fin 16) {v : Nat}
    (hv : ∀ k < 11, v.testBit k = streamBit p (11 * i.val + k)) : cs[i].toNat = v &&& 0x7FF := by
  have hmask : v &&& 0x7FF = v % 2 ^ 11 := Nat.and_two_pow_sub_one_eq_mod v 11
  rw [hmask]
  refine Nat.eq_of_testBit_eq fun k => ?_
  rw [Nat.testBit_mod_two_pow, BitVec.testBit_toNat]
  by_cases hk : k < 11
  · rw [getLsbD_of_unpack h i hk, hv k hk, decide_eq_true hk, Bool.true_and]
  · rw [BitVec.getLsbD_of_ge _ _ (Nat.not_lt.1 hk), decide_eq_false hk, Bool.false_and]

/-- R123 (a). -/
theorem toNat_of_unpack_payloadInt {p : List Byte} {cs : ChannelSet} (h : unpack p = some cs) (i : Fin 16) :
    cs[i].toNat = (payloadInt p >>> (11 * i.val)) &&& 0x7FF :=
  toNat_of_unpack_eq_masked h i fun k hk => by rw [Nat.testBit_shiftRight, payloadInt_testBit p (by omega)]

/-- Byte `b` read from its bit `r` on holds the stream to the end of that byte. -/
theorem testBit_oneByte (p : List Byte) (b r k : Nat) :
    ((p.getD b 0).toNat >>> r).testBit k = (decide (r + k < 8 * 1) && streamBit p (8 * b + r + k)) := by
  rw [Nat.testBit_shiftRight, getD_testBit, Nat.add_assoc]

/-- Where `v` holds the stream from bit `r` of byte `b` to the end of that and the next `n - 1` bytes, byte `b + n`,
shifted to its place and OR'ed in, continues it. -/
theorem testBit_or_nextByte {p : List Byte} {v b r n : Nat} (hr : r < 8 * n)
    (hv : ∀ k, v.testBit k = (decide (r + k < 8 * n) && streamBit p (8 * b + r + k))) (k : Nat) :
    (v ||| (p.getD (b + n) 0).toNat <<< (8 * n - r)).testBit k =
      (decide (r + k < 8 * (n + 1)) && streamBit p (8 * b + r + k)) := by
  rw [Nat.testBit_or, hv, Nat.testBit_shiftLeft, getD_testBit]
  by_cases hk : r + k < 8 * n
  · have hbefore : ¬ 8 * n - r ≤ k := by omega
    have hwithin : r + k < 8 * (n + 1) := by omega
    simp [hk, hbefore, hwithin]
  · have hafter : 8 * n - r ≤ k := by omega
    have hplace : 8 * (b + n) + (k - (8 * n - r)) = 8 * b + r + k := by omega
    have hend : k - (8 * n - r) < 8 ↔ r + k < 8 * (n + 1) := by omega
    simp [hk, hafter, hplace, hend]

theorem testBit_twoBytes (p : List Byte) {b r : Nat} (hr : r < 8) :
    ∀ k, ((p.getD b 0).toNat >>> r ||| (p.getD (b + 1) 0).toNat <<< (8 - r)).testBit k =
      (decide (r + k < 16) && streamBit p (8 * b + r + k)) :=
  testBit_or_nextByte (n := 1) hr (testBit_oneByte p b r)

theorem testBit_threeBytes (p : List Byte) {b r : Nat} (hr : r < 8) :
    ∀ k, ((p.getD b 0).toNat >>> r ||| (p.getD (b + 1) 0).toNat <<< (8 - r) |||
      (p.getD (b + 2) 0).toNat <<< (16 - r)).testBit k = (decide (r + k < 24) && streamBit p (8 * b + r + k)) :=
  testBit_or_nextByte (n := 2) (by omega) (testBit_twoBytes p hr)

/-- R123 (b), a channel that ends in the byte after the one it starts in. -/
theorem toNat_of_unpack_twoBytes {p : List Byte} {cs : ChannelSet} (h : unpack p = some cs) (i : Fin 16) {b r : Nat}
    (hi : 11 * i.val = 8 * b + r) (hr : r ≤ 5) :
    cs[i].toNat = ((p.getD b 0).toNat >>> r ||| (p.getD (b + 1) 0).toNat <<< (8 - r)) &&& 0x7FF :=
  toNat_of_unpack_eq_masked h i fun k hk => by
    have hin : r + k < 16 := by omega
    rw [testBit_twoBytes p (by omega), decide_eq_true hin, Bool.true_and, hi]

/-- R123 (b), a channel that takes a whole byte between its two ends. -/
theorem toNat_of_unpack_threeBytes {p : List Byte} {cs : ChannelSet} (h : unpack p = some cs) (i : Fin 16) {b r : Nat}
    (hi : 11 * i.val = 8 * b + r) (hr : r < 8) :
    cs[i].toNat = ((p.getD b 0).toNat >>> r ||| (p.getD (b + 1) 0).toNat <<< (8 - r) |||
      (p.getD (b + 2) 0).toNat <<< (16 - r)) &&& 0x7FF :=
  toNat_of_unpack_eq_masked h i fun k hk => by
    have hin : r + k < 24 := by omega
    rw [testBit_threeBytes p hr, decide_eq_true hin, Bool.true_and, hi]

/-- Settles O7: channel `i` starts at bit `r` of byte `b` where `11 * i = 8 * b + r`, and reads the bytes from there. -/
theorem unpackEquivalentForms : Obligations.UnpackEquivalentForms := by
  intro p hp
  obtain ⟨cs, hcs⟩ := exists_unpack_eq_some hp
  have two := @toNat_of_unpack_twoBytes p cs hcs
  have three := @toNat_of_unpack_threeBytes p cs hcs
  exact ⟨cs, hcs, toNat_of_unpack_payloadInt hcs,
    two 0 (b := 0) (r := 0) rfl (by decide), two 1 (b := 1) (r := 3) rfl (by decide),
    three 2 (b := 2) (r := 6) rfl (by decide), two 3 (b := 4) (r := 1) rfl (by decide),
    two 4 (b := 5) (r := 4) rfl (by decide), three 5 (b := 6) (r := 7) rfl (by decide),
    two 6 (b := 8) (r := 2) rfl (by decide), two 7 (b := 9) (r := 5) rfl (by decide),
    two 8 (b := 11) (r := 0) rfl (by decide), two 9 (b := 12) (r := 3) rfl (by decide),
    three 10 (b := 13) (r := 6) rfl (by decide), two 11 (b := 15) (r := 1) rfl (by decide),
    two 12 (b := 16) (r := 4) rfl (by decide), three 13 (b := 17) (r := 7) rfl (by decide),
    two 14 (b := 19) (r := 2) rfl (by decide), two 15 (b := 20) (r := 5) rfl (by decide)⟩

/-! ## PACK is the inverse (R124) -/

/-- Every stream bit belongs to a channel, so the channels determine the payload. -/
theorem eq_of_unpack_eq_some {p q : List Byte} {cs : ChannelSet} (hp : unpack p = some cs) (hq : unpack q = some cs) :
    p = q := by
  have hplen : p.length = 22 := ((unpack_eq_some_iff p cs).1 hp).1
  have hqlen : q.length = 22 := ((unpack_eq_some_iff q cs).1 hq).1
  refine eq_of_streamBit_eq (hplen.trans hqlen.symm) fun j hj => ?_
  have hchan : j / 11 < 16 := by omega
  have hk : j % 11 < 11 := Nat.mod_lt j (by decide)
  have hbit := (getLsbD_of_unpack hp ⟨j / 11, hchan⟩ hk).symm.trans (getLsbD_of_unpack hq ⟨j / 11, hchan⟩ hk)
  rwa [Nat.div_add_mod] at hbit

/-- Settles O8: UNPACK undoes PACK, so PACK(ch) and p have the same channels, and they are then the same bytes. -/
theorem packIsTheInverseOfUnpack : Obligations.PackIsTheInverseOfUnpack :=
  ⟨fun cs => ⟨pack_length cs, unpack_pack cs⟩, fun _ cs h => eq_of_unpack_eq_some (unpack_pack cs) h⟩

end Sys2Proof.Machine

/-! SUPPORT. Proofs of the statements about the Frame Synchronizer (spec/42_synchronizer.md): the decision's checks
(R140, R146, R147), what its operations do where they are taken (R141 to R144) and leave unchanged, and draining a
buffer to Wait (R147, R148). -/

namespace Sys2Proof.Machine

/-! ## The decision (R140, R142, R146) -/

/-- Settles O9: the laws of `syncAction`, with the frame's two first bytes counted on both sides of the last check. -/
theorem syncActionFollowsTheChecks : Obligations.SyncActionFollowsTheChecks :=
  ⟨syncAction_nil, syncAction_cons_of_ne, syncAction_addr_alone, fun l rest =>
    ⟨fun h => (syncAction_addr l rest).trans (if_pos (Nat.lt_of_add_lt_add_right (n := 2) h)),
      fun h => (syncAction_addr l rest).trans (if_neg fun hlt => h (Nat.add_lt_add_right hlt 2))⟩⟩

/-- A buffer that waits is shorter than the longest frame (R146). -/
theorem length_lt_maxFrame_of_wait {buf : List Byte} (h : syncAction buf = .wait) :
    buf.length < Config.maxFrame := by
  obtain rfl | rfl | ⟨l, rest, rfl, hl⟩ := (syncAction_eq_wait_iff buf).1 h
  · decide
  · decide
  · have := l.isLt
    simp only [List.length_cons, Config.maxFrame]
    omega

/-- R142: a buffer that waits has room, so the producer can still move. -/
theorem inReady_of_wait {s : State} (h : syncAction s.buf = .wait) : inReady false s = true :=
  (inReady_iff s).2 (Nat.lt_of_lt_of_le (length_lt_maxFrame_of_wait h) maxFrame_le_bufCap)

/-! ## What the operations of the core are, each as a step that is taken or not -/

theorem exec_syncDrop (b : Byte) (s : State) :
    exec (.syncDrop b) s = takeIf (selects s (.syncDrop b)) s ((s.dropFront 1).raise .resync) := rfl

theorem exec_frameMalformed (f : List Byte) (s : State) :
    exec (.frameMalformed f) s =
      takeIf (selects s (.frameMalformed f)) s ((s.dropFront f.length).raise .malformedLen) := rfl

theorem exec_valCrcFail (cand : Candidate) (s : State) :
    exec (.valCrcFail cand) s =
      takeIf (selects s (.valCrcFail cand)) s ((s.dropFront (rawFrame cand).length).raise .crcFail) := rfl

theorem exec_valIgnore (cand : Candidate) (s : State) :
    exec (.valIgnore cand) s =
      takeIf (selects s (.valIgnore cand)) s ((s.dropFront (rawFrame cand).length).raise .typeIgnored) := rfl

theorem exec_valRcBadLen (cand : Candidate) (s : State) :
    exec (.valRcBadLen cand) s =
      takeIf (selects s (.valRcBadLen cand)) s ((s.dropFront (rawFrame cand).length).raise .rcBadLength) := rfl

/-- A candidate with a ChannelSet: VAL.RC is taken where it is selected. -/
theorem exec_valRc {cand : Candidate} {cs : ChannelSet} (h : unpack cand.payload = some cs) (s : State) :
    exec (.valRc cand) s =
      takeIf (selects s (.valRc cand)) s (rcEffect cs (s.dropFront (rawFrame cand).length)) := by
  simp only [exec, execValRc, h]

theorem exec_valRc_of_not_selects {cand : Candidate} {s : State} (h : selects s (.valRc cand) = false) :
    exec (.valRc cand) s = .next s := by
  cases hu : unpack cand.payload with
  | none => simp only [exec, execValRc, hu]
  | some cs => rw [exec_valRc hu, h, takeIf_false]

theorem exec_syncExtract (n : Nat) (s : State) :
    exec (.syncExtract n) s =
      takeIf (s.pend.isEmpty && decide (syncAction s.buf = .extract n)) s (extractEffect n s) := rfl

theorem exec_core_of_wait {s : State} (h : syncAction s.buf = .wait) : exec .core s = .next s := by
  simp only [exec, execCore, h]

theorem exec_core_of_drop {s : State} (h : syncAction s.buf = .drop) :
    exec .core s = takeIf s.pend.isEmpty s (dropEffect s) := by
  simp only [exec, execCore, h]

theorem exec_core_of_extract {s : State} {n : Nat} (h : syncAction s.buf = .extract n) :
    exec .core s = takeIf s.pend.isEmpty s (extractEffect n s) := by
  simp only [exec, execCore, h]

/-- Everything CORE can answer (R203, R204). -/
theorem exec_core_next_cases {s t : State} (h : exec .core s = .next t) :
    t = s ∨ (syncAction s.buf = .drop ∧ t = dropEffect s) ∨
      ∃ n, syncAction s.buf = .extract n ∧ t = extractEffect n s := by
  cases hact : syncAction s.buf with
  | wait =>
    rw [exec_core_of_wait hact] at h
    cases h
    exact .inl rfl
  | drop =>
    rw [exec_core_of_drop hact] at h
    obtain ⟨-, rfl⟩ | ⟨-, rfl⟩ := (takeIf_eq_next_iff _ _ _ _).1 h
    · exact .inr (.inl ⟨rfl, rfl⟩)
    · exact .inl rfl
  | extract n =>
    rw [exec_core_of_extract hact] at h
    obtain ⟨-, rfl⟩ | ⟨-, rfl⟩ := (takeIf_eq_next_iff _ _ _ _).1 h
    · exact .inr (.inr ⟨n, rfl, rfl⟩)
    · exact .inl rfl

/-! ## What a taken operation does -/

theorem takeIf_selects {s : State} {i : Instr} (hp : s.pend = []) (hi : decodeHead s.buf = i) (t : State) :
    takeIf (selects s i) s t = .next t := by
  rw [(selects_iff s i).2 ⟨hp, hi⟩, takeIf_true]

/-- Consuming a word at the head of the buffer with an event leaves what stood behind the word. -/
theorem dropFront_raise_eq {s : State} {word rest : List Byte} (hb : s.buf = word ++ rest) (ev : Status) :
    (s.dropFront word.length).raise ev = { s with buf := rest, obs := s.obs ++ [.status ev] } := by
  simp [State.raise, State.record, State.dropFront, hb]

theorem exec_syncDrop_of_head {s : State} {b : Byte} {rest : List Byte} (hp : s.pend = []) (hb : s.buf = b :: rest)
    (hne : b ≠ Config.addr) :
    exec (.syncDrop b) s = .next { s with buf := rest, obs := s.obs ++ [.status .resync] } := by
  have hsel : decodeHead s.buf = .syncDrop b := hb ▸ decodeHead_of_drop hne
  rw [exec_syncDrop, takeIf_selects hp hsel]
  exact congrArg _ (dropFront_raise_eq (word := [b]) hb .resync)

theorem exec_frameMalformed_of_head {s : State} {l : Byte} {body rest : List Byte} (hp : s.pend = [])
    (hl : body.length = l.toNat) (h2 : l.toNat < 2) (hb : s.buf = Config.addr :: l :: body ++ rest) :
    exec (.frameMalformed (Config.addr :: l :: body)) s =
      .next { s with buf := rest, obs := s.obs ++ [.status .malformedLen] } := by
  have hsel : decodeHead s.buf = .frameMalformed (Config.addr :: l :: body) :=
    hb ▸ decodeHead_malformed_append hl h2 rest
  rw [exec_frameMalformed, takeIf_selects hp hsel, dropFront_raise_eq hb]

/-- Settles O12: a head other than the address selects SYNC.DROP, whose one byte is the head. -/
theorem syncDropDropsOneByte : Obligations.SyncDropDropsOneByte :=
  fun _ _ _ hp hb hne => ⟨exec_syncDrop_of_head hp hb hne, rfl⟩

/-- Settles O14: a frame of L < 2 at the head selects FRAME.MALFORMED with that frame's bytes. -/
theorem frameMalformedConsumesTheFrame : Obligations.FrameMalformedConsumesTheFrame :=
  fun _ _ _ _ hp hl h2 hb => ⟨exec_frameMalformed_of_head hp hl h2 hb, rfl⟩

/-! ## CORE is the operation that the state selects (R66, R203) -/

theorem unpack_of_validate_eq_rcDecoded {cand : Candidate} {cs : ChannelSet} (h : validate cand = .rcDecoded cs) :
    unpack cand.payload = some cs := by
  unfold validate at h
  split at h
  · cases h
  · split at h
    · cases h
    · split at h
      · cases h
      · cases h
        assumption

/-- The operation of a candidate at the head has the effect of its verdict, after its frame is gone. -/
theorem exec_decodeCandidate {s : State} {cand : Candidate} {rest : List Byte} (hp : s.pend = [])
    (hlen : cand.payload.length ≤ 253) (hb : s.buf = rawFrame cand ++ rest) :
    exec (decodeCandidate cand) s =
      .next (verdictEffect (validate cand) (s.dropFront (rawFrame cand).length)) := by
  have hsel : decodeHead s.buf = decodeCandidate cand := hb ▸ decodeHead_rawFrame_append hlen rest
  unfold decodeCandidate at hsel ⊢
  cases hv : validate cand <;> rw [hv] at hsel
  case rcDecoded cs => exact (exec_valRc (unpack_of_validate_eq_rcDecoded hv) s).trans (takeIf_selects hp hsel _)
  all_goals exact takeIf_selects hp hsel _

/-- The raw frame that an Extract takes from the front. -/
theorem exists_frame_of_extract {buf : List Byte} {n : Nat} (h : syncAction buf = .extract n) :
    ∃ l body rest, body.length = l.toNat ∧ n = (Config.addr :: l :: body).length ∧
      buf = Config.addr :: l :: body ++ rest := by
  obtain ⟨l, tail, rfl, rfl, hl⟩ := (syncAction_eq_extract_iff buf n).1 h
  have hlen : (tail.take l.toNat).length = l.toNat := List.length_take_of_le hl
  exact ⟨l, tail.take l.toNat, tail.drop l.toNat, hlen, by simp [hlen], by simp⟩

/-- The operation that a raw frame at the head selects is the extraction with all that follows it (log entry 6). -/
theorem exec_decodeHead_of_extract {s : State} {n : Nat} (hp : s.pend = []) (h : syncAction s.buf = .extract n) :
    exec (decodeHead s.buf) s = .next (extractEffect n s) := by
  obtain ⟨l, body, rest, hl, rfl, hb⟩ := exists_frame_of_extract h
  have hframe : s.buf.take (Config.addr :: l :: body).length = Config.addr :: l :: body := by
    rw [hb, List.take_left]
  have hsel := decodeHead_of_extract h
  rw [hframe] at hsel
  unfold extractEffect
  rw [hsel, State.memRead_zero, hframe, decodeFrame]
  cases hc : candidateOf (Config.addr :: l :: body) with
  | none =>
    rw [decodeFrame, hc] at hsel
    exact takeIf_selects hp hsel _
  | some cand =>
    obtain ⟨hraw, hlen⟩ := rawFrame_of_candidateOf hl hc
    have hfit : cand.payload.length ≤ 253 := by have := l.isLt; omega
    rw [← hraw] at hb ⊢
    exact exec_decodeCandidate hp hfit hb

/-- With no delta pending, CORE is the one operation that the head of the buffer selects. -/
theorem exec_core_of_pend_nil {s : State} (hp : s.pend = []) : exec .core s = exec (decodeHead s.buf) s := by
  have hempty : s.pend.isEmpty = true := List.isEmpty_iff.2 hp
  cases h : syncAction s.buf with
  | wait => rw [exec_core_of_wait h, decodeHead_of_wait h]; rfl
  | drop =>
    obtain ⟨b, rest, hb, hne⟩ := (syncAction_eq_drop_iff s.buf).1 h
    have hsel : decodeHead s.buf = .syncDrop b := hb ▸ decodeHead_of_drop hne
    rw [exec_core_of_drop h, hempty, hsel, exec_syncDrop, takeIf_selects hp hsel]
    rfl
  | extract n => rw [exec_core_of_extract h, hempty, exec_decodeHead_of_extract hp h, takeIf_true]

theorem exec_syncExtract_of_extract {s : State} {n : Nat} (hp : s.pend = []) (h : syncAction s.buf = .extract n) :
    exec (.syncExtract n) s = .next (extractEffect n s) := by
  rw [exec_syncExtract, List.isEmpty_iff.2 hp, decide_eq_true h, Bool.and_true, takeIf_true]

/-- A frame of L >= 2 written out byte by byte is its candidate's raw frame (R60). -/
theorem eq_rawFrame_append {l t c : Byte} {p : List Byte} (hl : p.length + 2 = l.toNat) (rest : List Byte) :
    Config.addr :: l :: t :: (p ++ c :: rest) = rawFrame ⟨t, p, c⟩ ++ rest := by
  simp [rawFrame, hl]

/-- Settles O13: the extraction is the operation that the frame selects, which is FRAME.MALFORMED or the one of the
candidate's verdict. -/
theorem syncExtractRunsTheWholeStep : Obligations.SyncExtractRunsTheWholeStep := by
  constructor
  · intro s l body rest hp hl h2 hb
    have hb' : s.buf = Config.addr :: l :: body ++ rest := hb
    have hact : syncAction s.buf = .extract (l.toNat + 2) :=
      (syncAction_eq_extract_iff _ _).2 ⟨l, body ++ rest, hb, rfl, by simp [hl]⟩
    rw [exec_syncExtract_of_extract hp hact, ← exec_decodeHead_of_extract hp hact, hb',
      decodeHead_malformed_append hl h2]
    exact exec_frameMalformed_of_head hp hl h2 hb'
  · intro s l t c p rest hp hl hb
    have hfit : p.length ≤ 253 := by have := l.isLt; omega
    have hraw : s.buf = rawFrame ⟨t, p, c⟩ ++ rest := hb.trans (eq_rawFrame_append hl rest)
    have hn : l.toNat + 2 = (rawFrame ⟨t, p, c⟩).length := by rw [rawFrame_length, ← hl]
    have hact : syncAction s.buf = .extract (l.toNat + 2) := by
      rw [hraw, hn, syncAction_rawFrame_append hfit]
    rw [exec_syncExtract_of_extract hp hact, exec_decodeCandidate hp hfit hraw, hn, extractEffect_rawFrame hfit hraw]
    exact ⟨rfl, _, rfl, by simp [hraw], by simp⟩

/-! ## A full buffer, and a buffer that waits -/

/-- With no delta pending, a buffer that is not waiting has a CORE step, and it makes room. -/
theorem exists_exec_core_shorter {s : State} (hp : s.pend = []) (h : syncAction s.buf ≠ .wait) :
    ∃ t, exec .core s = .next t ∧ t.buf.length < s.buf.length := by
  have hempty : s.pend.isEmpty = true := List.isEmpty_iff.2 hp
  cases hact : syncAction s.buf with
  | wait => exact absurd hact h
  | drop =>
    obtain ⟨b, rest, hb, -⟩ := (syncAction_eq_drop_iff s.buf).1 hact
    exact ⟨dropEffect s, by rw [exec_core_of_drop hact, hempty, takeIf_true], by simp [hb]⟩
  | extract n =>
    have ⟨hlo, _, hle⟩ := extract_bounds hact
    refine ⟨extractEffect n s, by rw [exec_core_of_extract hact, hempty, takeIf_true], ?_⟩
    rw [extractEffect_buf, List.length_drop]
    omega

/-- Settles O15: a waiting buffer is shorter than the longest frame, which the capacity holds. -/
theorem fullBufferProgresses : Obligations.FullBufferProgresses := by
  have hact {buf : List Byte} (h : Config.maxFrame ≤ buf.length) : syncAction buf ≠ .wait :=
    fun hw => absurd (length_lt_maxFrame_of_wait hw) (Nat.not_lt.2 h)
  refine ⟨fun buf => hact, maxFrame_le_bufCap, fun s hfull hp => ?_⟩
  rw [← hfull]
  exact exists_exec_core_shorter hp (hact (hfull ▸ maxFrame_le_bufCap))

/-- Settles O11: the three forms of Wait, each shorter than the capacity, so that FEED has room. -/
theorem syncWaitRetainsTheBuffer : Obligations.SyncWaitRetainsTheBuffer := by
  refine ⟨fun buf => ?_, fun s h => ?_⟩
  · rw [syncAction_eq_wait_iff]
    refine or_congr_right (or_congr_right (exists₂_congr fun l rest => and_congr_right fun hb => ?_))
    rw [hb]
    exact (Nat.add_lt_add_iff_right (k := 2)).symm
  · refine ⟨decodeHead_of_wait h, rfl, exec_core_of_wait h, fun b => ?_, _, rfl, rfl⟩
    rw [exec_feed, inReady_of_wait h]
    rfl

/-! ## Frames -/

/-- A discarding operation other than SYNC.WAIT takes its own word with one event, where it is selected. -/
theorem exists_exec_eq_takeIf_discard {i : Instr} (s : State)
    (hi : (∃ b, i = .syncDrop b) ∨ (∃ f, i = .frameMalformed f) ∨ (∃ c, i = .valCrcFail c) ∨
      (∃ c, i = .valIgnore c) ∨ ∃ c, i = .valRcBadLen c) :
    ∃ ev, exec i s = takeIf (selects s i) s ((s.dropFront (encode i).length).raise ev) := by
  obtain ⟨b, rfl⟩ | ⟨f, rfl⟩ | ⟨c, rfl⟩ | ⟨c, rfl⟩ | ⟨c, rfl⟩ := hi
  · exact ⟨_, exec_syncDrop b s⟩
  · exact ⟨_, exec_frameMalformed f s⟩
  · exact ⟨_, exec_valCrcFail c s⟩
  · exact ⟨_, exec_valIgnore c s⟩
  · exact ⟨_, exec_valRcBadLen c s⟩

/-- Settles O57: SYNC.WAIT keeps the state, and each other operation takes its own word or, not selected, nothing. -/
theorem discardingOperationsKeepLastAndPend : Obligations.DiscardingOperationsKeepLastAndPend := by
  rintro i s t (rfl | hi) ht
  · cases ht
    exact ⟨rfl, rfl, rfl, rfl, by simp [encode], .inl rfl⟩
  · obtain ⟨ev, hexec⟩ := exists_exec_eq_takeIf_discard s hi
    obtain ⟨hsel, rfl⟩ | ⟨hsel, rfl⟩ := (takeIf_eq_next_iff _ _ _ _).1 (hexec.symm.trans ht)
    · exact ⟨rfl, rfl, rfl, rfl, by simp [hsel, Nat.add_comm], .inr ⟨ev, rfl⟩⟩
    · exact ⟨rfl, rfl, rfl, rfl, by simp [hsel], .inl rfl⟩

theorem verdictEffect_last_pend {v : Verdict} (h : verdictStatus v ≠ .rcDecoded) (s : State) :
    (verdictEffect v s).last = s.last ∧ (verdictEffect v s).pend = s.pend := by
  cases v with
  | rcDecoded cs => exact absurd rfl h
  | _ => exact ⟨rfl, rfl⟩

/-- An extraction raises one event, and changes `last` and `pend` with RC_DECODED alone. -/
theorem exists_event_extractEffect (n : Nat) (s : State) :
    ∃ ev, (extractEffect n s).obs = s.obs ++ [.status ev] ∧
      (ev ≠ .rcDecoded → (extractEffect n s).last = s.last ∧ (extractEffect n s).pend = s.pend) := by
  unfold extractEffect
  split
  · exact ⟨.malformedLen, rfl, fun _ => ⟨rfl, rfl⟩⟩
  · exact ⟨_, verdictEffect_obs _ _, fun h => verdictEffect_last_pend h _⟩

/-- SYNC.EXTRACT and VAL.RC are the CORE step where they are taken, and nothing otherwise. -/
theorem exec_extracting_eq_core {i : Instr} (s : State)
    (hi : i = .core ∨ (∃ n, i = .syncExtract n) ∨ ∃ c, i = .valRc c) :
    exec i s = exec .core s ∨ exec i s = .next s := by
  obtain rfl | ⟨n, rfl⟩ | ⟨cand, rfl⟩ := hi
  · exact .inl rfl
  · by_cases h : syncAction s.buf = .extract n
    · exact .inl (by rw [exec_syncExtract, exec_core_of_extract h, decide_eq_true h, Bool.and_true])
    · exact .inr (by rw [exec_syncExtract, decide_eq_false h, Bool.and_false, takeIf_false])
  · cases h : selects s (.valRc cand) with
    | true =>
      obtain ⟨hp, hsel⟩ := (selects_iff s _).1 h
      exact .inl (by rw [exec_core_of_pend_nil hp, hsel])
    | false => exact .inr (exec_valRc_of_not_selects h)

/-- Settles O58: of CORE's steps only an extraction with RC_DECODED writes `last` and `pend`. -/
theorem extractingOperationsFrame : Obligations.ExtractingOperationsFrame := by
  intro i s t hi ht
  have hcases : t = s ∨ (syncAction s.buf = .drop ∧ t = dropEffect s) ∨
      ∃ n, syncAction s.buf = .extract n ∧ t = extractEffect n s := by
    obtain h | h := exec_extracting_eq_core s hi
    · exact exec_core_next_cases (h ▸ ht)
    · exact .inl (by cases h.symm.trans ht; rfl)
  obtain rfl | ⟨hact, rfl⟩ | ⟨n, hact, rfl⟩ := hcases
  · exact ⟨rfl, rfl, .inl rfl⟩
  · exact ⟨rfl, rfl, .inr ⟨.resync, 1, rfl, .inr ⟨hact, rfl⟩, by simp, fun _ => ⟨rfl, rfl⟩⟩⟩
  · obtain ⟨ev, hobs, hkeep⟩ := exists_event_extractEffect n s
    exact ⟨extractEffect_agenda n s, extractEffect_unitOut n s,
      .inr ⟨ev, n, hobs, .inl hact, by simp [Nat.add_comm], hkeep⟩⟩

/-! ## Draining a buffer (R147, R148) -/

theorem syncAction_append_of_ne_wait {b : List Byte} (h : syncAction b ≠ .wait) (e : List Byte) :
    syncAction (b ++ e) = syncAction b := by
  cases hact : syncAction b with
  | wait => exact absurd hact h
  | drop =>
    obtain ⟨a, rest, rfl, ha⟩ := (syncAction_eq_drop_iff b).1 hact
    exact syncAction_cons_of_ne a (rest ++ e) ha
  | extract n =>
    obtain ⟨l, rest, rfl, rfl, hl⟩ := (syncAction_eq_extract_iff b n).1 hact
    refine (syncAction_eq_extract_iff _ _).2 ⟨l, rest ++ e, rfl, rfl, ?_⟩
    rw [List.length_append]
    omega

theorem length_pos_of_ne_wait {b : List Byte} (h : syncAction b ≠ .wait) : 1 ≤ b.length :=
  List.length_pos_iff.2 fun hb => h (hb ▸ syncAction_nil)

theorem drop_one_append_of_drop {b : List Byte} (h : syncAction b = .drop) (e : List Byte) :
    (b ++ e).drop 1 = b.drop 1 ++ e :=
  List.drop_append_of_le_length (length_pos_of_ne_wait (by simp [h]))

theorem drop_append_of_extract {b : List Byte} {n : Nat} (h : syncAction b = .extract n) (e : List Byte) :
    (b ++ e).drop n = b.drop n ++ e :=
  have ⟨_, _, hle⟩ := extract_bounds h
  List.drop_append_of_le_length hle

theorem take_append_of_extract {b : List Byte} {n : Nat} (h : syncAction b = .extract n) (e : List Byte) :
    (b ++ e).take n = b.take n :=
  have ⟨_, _, hle⟩ := extract_bounds h
  List.take_append_of_le_length hle

/-- What holds of every buffer that waits, and of a buffer when it holds of what its action leaves, holds of all. -/
theorem drain_induction {P : ChannelSet → List Byte → Prop}
    (wait : ∀ last buf, syncAction buf = .wait → P last buf)
    (drop : ∀ last buf, syncAction buf = .drop → P last (buf.drop 1) → P last buf)
    (extract : ∀ last buf n, syncAction buf = .extract n →
      P (frameResult last (buf.take n)).2.2 (buf.drop n) → P last buf)
    (last : ChannelSet) (buf : List Byte) : P last buf := by
  induction hk : buf.length using Nat.strong_induction_on generalizing last buf with
  | _ k ih =>
    cases h : syncAction buf with
    | wait => exact wait last buf h
    | drop =>
      have hpos := length_pos_of_ne_wait (b := buf) (by simp [h])
      exact drop last buf h (ih _ (by rw [List.length_drop]; omega) _ _ rfl)
    | extract n =>
      have ⟨hlo, _, hle⟩ := extract_bounds h
      exact extract last buf n h (ih _ (by rw [List.length_drop]; omega) _ _ rfl)

/-- One drained run and then another, which goes on from what the first one left. -/
def Drained.andThen (r r' : Drained) : Drained :=
  ⟨r.events ++ r'.events, r.deltas ++ r'.deltas, r'.last, r'.rest⟩

theorem Drained.nil_andThen (last : ChannelSet) (rest : List Byte) (r : Drained) :
    Drained.andThen ⟨[], [], last, rest⟩ r = r := rfl

theorem consDrained_andThen (ev : Status) (ds : List Delta) (r r' : Drained) :
    (consDrained ev ds r).andThen r' = consDrained ev ds (r.andThen r') := by
  simp [Drained.andThen, consDrained]

/-- R147: draining what came first, and then what is left with what came later, is draining all at once. -/
theorem drain_append (last : ChannelSet) (b e : List Byte) :
    drain last (b ++ e) =
      (drain last b).andThen (drain (drain last b).last ((drain last b).rest ++ e)) := by
  induction last, b using drain_induction with
  | wait last b h => rw [drain_of_wait h, Drained.nil_andThen]
  | drop last b h ih =>
    have happ : syncAction (b ++ e) = .drop := (syncAction_append_of_ne_wait (by simp [h]) e).trans h
    rw [drain_of_drop happ, drain_of_drop h, drop_one_append_of_drop h, ih, consDrained_andThen]
    rfl
  | extract last b n h ih =>
    have happ : syncAction (b ++ e) = .extract n := (syncAction_append_of_ne_wait (by simp [h]) e).trans h
    rw [drain_of_extract happ, drain_of_extract h, drop_append_of_extract h, take_append_of_extract h, ih,
      consDrained_andThen]
    rfl

/-- Settles O16: an action looks at no byte behind what it takes, and R147's two drainings by induction over actions. -/
theorem chunkingIsUnobservable : Obligations.ChunkingIsUnobservable := by
  refine ⟨fun b e h => syncAction_append_of_ne_wait h e, fun b e h => drop_one_append_of_drop h e,
    fun b e n h => ⟨drop_append_of_extract h e, take_append_of_extract h e⟩, fun last b e => ?_⟩
  rw [drain_append]
  exact ⟨rfl, rfl, rfl, rfl⟩

theorem frameResult_ne_resync (last : ChannelSet) (f : List Byte) : (frameResult last f).1 ≠ .resync := by
  unfold frameResult
  split
  · nofun
  · split <;> nofun

/-- A drained run ends where the synchronizer waits. -/
theorem syncAction_drain_rest (last : ChannelSet) (buf : List Byte) : syncAction (drain last buf).rest = .wait := by
  induction last, buf using drain_induction with
  | wait last buf h => rwa [drain_of_wait h]
  | drop last buf h ih => rwa [drain_of_drop h]
  | extract last buf n h ih => rwa [drain_of_extract h]

/-- R148: RESYNC accounts for one byte, every other event for at least two. -/
theorem drain_length_le (last : ChannelSet) (buf : List Byte) :
    (drain last buf).rest.length + (drain last buf).events.length +
      ((drain last buf).events.filter fun ev => ev ≠ .resync).length ≤ buf.length := by
  induction last, buf using drain_induction with
  | wait last buf h => simp [drain_of_wait h]
  | drop last buf h ih =>
    have hpos := length_pos_of_ne_wait (b := buf) (by simp [h])
    rw [List.length_drop] at ih
    simp (disch := decide) only [drain_of_drop h, consDrained, List.filter_cons_of_neg, List.length_cons]
    omega
  | extract last buf n h ih =>
    have ⟨hlo, _, hle⟩ := extract_bounds h
    rw [List.length_drop] at ih
    have hev (f : List Byte) : decide ((frameResult last f).1 ≠ .resync) = true :=
      decide_eq_true (frameResult_ne_resync last f)
    simp (disch := exact hev _) only [drain_of_extract h, consDrained, List.filter_cons_of_pos, List.length_cons]
    omega

/-- Settles O17: the count of bytes per event, and the three forms of a buffer that waits. -/
theorem drainIsBounded : Obligations.DrainIsBounded := by
  intro last buf
  have hle := drain_length_le last buf
  have hwait := syncAction_drain_rest last buf
  exact ⟨by omega, hle, hwait, (syncAction_eq_wait_iff _).1 hwait⟩

end Sys2Proof.Machine

/-! SUPPORT. Proofs of the statements about the Frame Validator (spec/43_validator.md): what VALIDATE answers at each of
its ordered checks (R160), the residue form of the first (R165), and what the operations of its four outcomes do with the
frame at the head (R161 to R164). -/

namespace Sys2Proof.Machine

/-! ## The verdict at each check (R160) -/

theorem validate_of_crc_ne {cand : Candidate} (h : computedCrc cand ≠ cand.crc) : validate cand = .crcFail :=
  if_pos h

section Checks

variable {cand : Candidate} (hcrc : computedCrc cand = cand.crc)
include hcrc

theorem validate_of_type_ne (h : cand.frameType ≠ Config.typeRc) : validate cand = .typeIgnored := by
  rw [validate, if_neg (not_not.2 hcrc), if_pos h]

theorem validate_of_length_ne (htype : cand.frameType = Config.typeRc)
    (h : cand.payload.length ≠ Config.payloadRc) : validate cand = .rcBadLength := by
  rw [validate, if_neg (not_not.2 hcrc), if_neg (not_not.2 htype), (unpack_eq_none_iff _).2 h]

theorem validate_of_unpack (htype : cand.frameType = Config.typeRc) {cs : ChannelSet}
    (h : unpack cand.payload = some cs) : validate cand = .rcDecoded cs := by
  rw [validate, if_neg (not_not.2 hcrc), if_neg (not_not.2 htype), h]

end Checks

/-- Settles O18: the outcome is that of the verdict, which the first failing check fixes. -/
theorem validateChecksInOrder : Obligations.ValidateChecksInOrder := by
  intro t c p s
  refine ⟨_, _, exec_validate ⟨t, p, c⟩ s, fun hcrc => ?_, fun hcrc htype => ?_, fun hcrc htype hlen => ?_,
    fun hcrc htype hlen => ?_⟩
  · rw [validate_of_crc_ne (cand := ⟨t, p, c⟩) hcrc]
    exact ⟨rfl, rfl⟩
  · rw [validate_of_type_ne (cand := ⟨t, p, c⟩) hcrc htype]
    exact ⟨rfl, rfl⟩
  · rw [validate_of_length_ne (cand := ⟨t, p, c⟩) hcrc htype hlen]
    exact ⟨rfl, rfl⟩
  · obtain ⟨cs, hcs⟩ := exists_unpack_eq_some hlen
    rw [validate_of_unpack (cand := ⟨t, p, c⟩) hcrc htype hcs, hcs]
    exact ⟨rfl, rfl, rfl⟩

/-- Settles O23: CRC8 over all three parts is one step more, from the computed CRC with the received one, and a step is
0 at equal bytes alone. -/
theorem residueFormOfTheCheck : Obligations.ResidueFormOfTheCheck := by
  intro cand
  rw [crc8_append, crc8_append]
  exact (crc8Step_eq_zero_iff _ _).symm

/-! ## A frame that is discarded (R161 to R163) -/

/-- A verdict without a ChannelSet: the frame leaves, and the outcome code is the event. -/
theorem exec_decodeCandidate_of_discard {s : State} {cand : Candidate} {rest : List Byte} {v : Verdict}
    (hp : s.pend = []) (hlen : cand.payload.length ≤ 253) (hb : s.buf = rawFrame cand ++ rest)
    (hv : validate cand = v) (hnone : verdictChannels v = none) :
    exec (decodeCandidate cand) s = .next { s with buf := rest, obs := s.obs ++ [.status (verdictStatus v)] } := by
  rw [exec_decodeCandidate hp hlen hb, hv, verdictEffect_eq, hnone]
  exact congrArg _ (dropFront_raise_eq hb _)

/-- Settles O19: a CRC that does not match selects VAL.CRC_FAIL for the candidate, which discards its frame. -/
theorem valCrcFailDiscards : Obligations.ValCrcFailDiscards := by
  intro s cand rest hp hlen hb hcrc
  have hv : validate cand = .crcFail := validate_of_crc_ne hcrc
  have hsel : decodeCandidate cand = .valCrcFail cand := by rw [decodeCandidate, hv]
  exact ⟨hsel ▸ exec_decodeCandidate_of_discard hp hlen hb hv rfl, rfl⟩

/-- Settles O20: another type behind a matching CRC selects VAL.IGNORE for the candidate, which discards its frame. -/
theorem valIgnoreSkipsOtherTypes : Obligations.ValIgnoreSkipsOtherTypes := by
  intro s cand rest hp hlen hb hcrc htype
  have hv : validate cand = .typeIgnored := validate_of_type_ne hcrc htype
  have hsel : decodeCandidate cand = .valIgnore cand := by rw [decodeCandidate, hv]
  exact ⟨hsel ▸ exec_decodeCandidate_of_discard hp hlen hb hv rfl, rfl⟩

/-- Settles O21: an RC frame that UNPACK refuses selects VAL.RC_BADLEN for the candidate, which discards its frame. -/
theorem valRcBadLenDiscards : Obligations.ValRcBadLenDiscards := by
  intro s cand rest hp hlen hb hcrc htype hne
  have hv : validate cand = .rcBadLength := validate_of_length_ne hcrc htype hne
  have hsel : decodeCandidate cand = .valRcBadLen cand := by rw [decodeCandidate, hv]
  exact ⟨hsel ▸ exec_decodeCandidate_of_discard hp hlen hb hv rfl, rfl⟩

/-! ## A frame that is decoded (R164) -/

/-- R180's list, lane by lane: the lanes that differ are kept, and each becomes its delta. -/
theorem changedDeltas_eq_map_filter (last new : ChannelSet) :
    changedDeltas last new =
      ((List.finRange 16).filter fun i => new[i] ≠ last[i]).map fun i => ⟨i, new[i].setWidth 16⟩ := by
  rw [changedDeltas, ← List.filterMap_eq_filter, List.map_filterMap]
  refine List.filterMap_congr fun i _ => ?_
  simp only [laneDelta, Option.guard, decide_eq_true_eq]
  split <;> rfl

/-- DISPATCH's update with `last` and `pend` written out (R180). -/
theorem State.dispatchSet_eq (new : ChannelSet) (s : State) :
    s.dispatchSet new =
      { s with
        last := new
        pend := ((List.finRange 16).filter fun i => new[i] ≠ s.last[i]).map fun i => ⟨i, new[i].setWidth 16⟩ } := by
  rw [State.dispatchSet, updatedLast_eq, changedDeltas_eq_map_filter]

/-- Settles O22: the frame passes every check, so it selects VAL.RC, whose effect is DISPATCH of its ChannelSet. -/
theorem valRcDecodesTheFrame : Obligations.ValRcDecodesTheFrame := by
  intro s cand rest hp hlen hb hcrc htype
  obtain ⟨cs, hcs⟩ := exists_unpack_eq_some hlen
  have hv : validate cand = .rcDecoded cs := validate_of_unpack hcrc htype hcs
  have hsel : decodeCandidate cand = .valRc cand := by rw [decodeCandidate, hv]
  have hdrop : s.dropFront (rawFrame cand).length = { s with buf := rest } := by simp [State.dropFront, hb]
  have hexec := exec_decodeCandidate hp (by omega) hb
  rw [hsel, hv, hdrop] at hexec
  refine ⟨cs, hcs, hexec.trans (congrArg _ ?_), rfl⟩
  rw [verdictEffect, rcEffect, State.dispatchSet_eq]
  rfl

end Sys2Proof.Machine

/-! SUPPORT. Proofs of the statements about the Change-Filtered Dispatcher (spec/44_dispatcher.md): the delta list of
R180 lane by lane and its properties (R183), DISPATCH and DELIVER where they are taken (R180, R184, R185), and the
frames of the operations at the ports (R180, R185, R202, R250). -/

namespace Sys2Proof.Machine

/-! ## One lane of the delta list (R180) -/

theorem laneDelta_of_ne {last new : ChannelSet} {i : Fin 16} (h : new[i] ≠ last[i]) :
    laneDelta last new i = some ⟨i, new[i].setWidth 16⟩ := if_pos h

theorem laneDelta_of_eq {last new : ChannelSet} {i : Fin 16} (h : new[i] = last[i]) :
    laneDelta last new i = none := if_neg (not_not.2 h)

/-- The lanes are independent: what the list holds for an index is that lane's delta, or nothing. -/
theorem changedDeltas_filter_index (last new : ChannelSet) (i : Fin 16) :
    ((changedDeltas last new).filter fun d => d.index = i) = (laneDelta last new i).toList := by
  have hlane : ((List.finRange 16).filter fun j => decide (j = i)) = [i] := by
    rw [List.filter_eq, List.count_finRange, List.replicate_one]
  calc (changedDeltas last new).filter (fun d => d.index = i)
      = (List.finRange 16).filterMap fun j => if decide (j = i) then laneDelta last new j else none := by
        rw [changedDeltas, List.filter_filterMap]
        refine List.filterMap_congr fun j _ => ?_
        unfold laneDelta
        split <;> simp [Option.filter]
    _ = [i].filterMap (laneDelta last new) := by rw [← List.filterMap_filter, hlane]
    _ = (laneDelta last new i).toList := by cases h : laneDelta last new i <;> simp [h]

/-! ## The properties of the list (R183) -/

/-- Zero-extension keeps channel values apart, so a 16-bit delta shows a change of one LSB (R180, R181). -/
theorem setWidth_chan_injective : Function.Injective fun v : Chan => v.setWidth 16 := by
  intro v w h
  have hback := congrArg (BitVec.setWidth 11) h
  rwa [BitVec.setWidth_setWidth_of_le _ (by decide), BitVec.setWidth_setWidth_of_le _ (by decide),
    BitVec.setWidth_eq, BitVec.setWidth_eq] at hback

theorem value_ne_of_mem_changedDeltas {last new : ChannelSet} {d : Delta} (hd : d ∈ changedDeltas last new) :
    d.value ≠ (last[d.index]).setWidth 16 := by
  obtain ⟨hne, hv⟩ := (mem_changedDeltas_iff last new d).1 hd
  rw [hv]
  exact setWidth_chan_injective.ne hne

theorem changedDeltas_self (cs : ChannelSet) : changedDeltas cs cs = [] :=
  List.eq_nil_iff_forall_not_mem.2 fun d hd => ((mem_changedDeltas_iff cs cs d).1 hd).1 rfl

theorem changedDeltas_length (last new : ChannelSet) :
    (changedDeltas last new).length = (List.finRange 16).countP fun i => new[i] ≠ last[i] := by
  rw [changedDeltas_eq_map_filter, List.length_map, List.countP_eq_length_filter]

/-- A set that can differ in channel `c` alone gives at most that lane's delta. -/
theorem changedDeltas_of_eq_elsewhere {last new : ChannelSet} {c : Fin 16} (h : ∀ i, i ≠ c → new[i] = last[i]) :
    changedDeltas last new = (laneDelta last new c).toList := by
  have hall : ∀ d ∈ changedDeltas last new, decide (d.index = c) = true := fun d hd =>
    decide_eq_true (not_not.1 fun hi => ((mem_changedDeltas_iff last new d).1 hd).1 (h d.index hi))
  rw [← changedDeltas_filter_index, List.filter_eq_self.2 hall]

theorem changedDeltas_set {last : ChannelSet} {v : Chan} {c : Fin 16} (h : v ≠ last[c]) :
    changedDeltas last (last.set c v) = [⟨c, v.setWidth 16⟩] := by
  have hset : (last.set c v)[c] = v := Vector.getElem_set_self c.isLt
  have helse : ∀ i, i ≠ c → (last.set c v)[i] = last[i] := fun i hi =>
    Vector.getElem_set_ne c.isLt i.isLt (Fin.val_ne_of_ne hi.symm)
  rw [changedDeltas_of_eq_elsewhere helse, laneDelta_of_ne (hset.symm ▸ h), hset, Option.toList_some]

/-- Settles O25: each property by its own lemma; a repeated set is compared with itself, since `last` is then `new`. -/
theorem dispatchEmitsExactlyTheChanges : Obligations.DispatchEmitsExactlyTheChanges := by
  refine ⟨fun last new => ⟨changedDeltas_length_le last new, Safety.changedDeltas_ascending last new,
    fun _ hd => value_ne_of_mem_changedDeltas hd, ?_, changedDeltas_length last new⟩,
    fun last v hv => changedDeltas_set (c := 3) hv⟩
  rw [updatedLast_eq, changedDeltas_self]

/-! ## DISPATCH and DELIVER (R180, R184, R185) -/

theorem exec_dispatch (new : ChannelSet) (s : State) :
    exec (.dispatch new) s = takeIf s.pend.isEmpty s (s.dispatchSet new) := rfl

theorem exec_dispatch_of_pend_nil {s : State} (hp : s.pend = []) (new : ChannelSet) :
    exec (.dispatch new) s = .next (s.dispatchSet new) := by
  rw [exec_dispatch, hp, List.isEmpty_nil, takeIf_true]

/-- The delta presented is the oldest one pending, so DELIVER is taken for that delta alone. -/
theorem exec_deliver (d : Delta) (s : State) :
    exec (.deliver d) s = takeIf (decide (s.pend.head? = some d)) s (s.popPend.record (.output d)) := by
  rw [← outDelta_false]
  rfl

theorem exec_reset (s : State) : exec .reset s = .next (s.clear.record .reset) := rfl

/-- Settles O24: DISPATCH is taken, and its lane-wise update is the whole new set with the changed lanes' deltas. -/
theorem dispatchLoadsTheChanges : Obligations.DispatchLoadsTheChanges := by
  intro s new hp
  rw [exec_dispatch_of_pend_nil hp, State.dispatchSet_eq]

/-- Settles O26: against `last` all zeros, a lane differs where its channel is not 0. -/
theorem firstFrameEmitsTheNonZero : Obligations.FirstFrameEmitsTheNonZero := by
  intro new
  refine ⟨_, exec_dispatch_of_pend_nil rfl new, fun i => ?_⟩
  have hzero : State.reset.last[i] = 0 := Safety.zeroChannels_getElem i
  rw [State.dispatchSet_pend, changedDeltas_filter_index]
  refine ⟨fun hne => ?_, fun heq => ?_⟩
  · rw [laneDelta_of_ne (hzero.symm ▸ hne), Option.toList_some]
  · rw [laneDelta_of_eq (heq.trans hzero.symm), Option.toList_none]

/-- Settles O27: the delta at the head of `pend` is the one presented, so the transfer is taken. -/
theorem deliverHandsOverTheOldest : Obligations.DeliverHandsOverTheOldest := by
  intro s d rest hp
  rw [exec_deliver, hp, List.head?_cons, decide_eq_true rfl, takeIf_true, State.popPend, hp]
  rfl

/-! ## Frames of the operations at the ports -/

theorem exec_dispatch_frame {new : ChannelSet} {s t : State} (h : exec (.dispatch new) s = .next t) :
    t.buf = s.buf ∧ t.agenda = s.agenda ∧ t.obs = s.obs ∧ t.unitOut = s.unitOut := by
  rw [exec_dispatch] at h
  obtain ⟨-, rfl⟩ | ⟨-, rfl⟩ := (takeIf_eq_next_iff _ _ _ _).1 h
  · exact ⟨State.dispatchSet_buf new s, State.dispatchSet_agenda new s, State.dispatchSet_obs new s,
      State.dispatchSet_unitOut new s⟩
  · exact ⟨rfl, rfl, rfl, rfl⟩

theorem exec_deliver_frame {d : Delta} {s t : State} (h : exec (.deliver d) s = .next t) :
    t.buf = s.buf ∧ t.last = s.last ∧ t.agenda = s.agenda ∧ t.unitOut = s.unitOut ∧
      (s.pend.head? ≠ some d → t = s) := by
  rw [exec_deliver] at h
  obtain ⟨hhead, rfl⟩ | ⟨-, rfl⟩ := (takeIf_eq_next_iff _ _ _ _).1 h
  · exact ⟨rfl, rfl, rfl, rfl, fun hne => absurd (of_decide_eq_true hhead) hne⟩
  · exact ⟨rfl, rfl, rfl, rfl, fun _ => rfl⟩

/-- An appended byte stands at the end: every other place reads as before. -/
theorem append_buf_getElem?_of_ne (b : Byte) (s : State) {k : Nat} (hk : k ≠ s.buf.length) :
    (s.append b).buf[k]? = s.buf[k]? := by
  rw [State.append_buf]
  obtain hlt | hgt := Nat.lt_or_gt_of_ne hk
  · exact List.getElem?_append_left hlt
  · rw [List.getElem?_eq_none hgt.le, List.getElem?_eq_none (by simpa using hgt)]

theorem exec_feed_frame {b : Byte} {s t : State} (h : exec (.feed b) s = .next t) :
    t.last = s.last ∧ t.pend = s.pend ∧ t.agenda = s.agenda ∧ t.unitOut = s.unitOut ∧
      ∀ k : Nat, k ≠ s.buf.length → t.buf[k]? = s.buf[k]? := by
  rw [exec_feed] at h
  obtain ⟨-, rfl⟩ | ⟨-, rfl⟩ := (takeIf_eq_next_iff _ _ _ _).1 h
  · exact ⟨rfl, rfl, rfl, rfl, fun _ hk => append_buf_getElem?_of_ne b s hk⟩
  · exact ⟨rfl, rfl, rfl, rfl, fun _ _ => rfl⟩

theorem exec_reset_frame {s t : State} (h : exec .reset s = .next t) :
    t.agenda = s.agenda ∧ t.unitOut = s.unitOut := by
  cases (exec_reset s).symm.trans h
  exact ⟨rfl, rfl⟩

/-- Settles O59, one operation at a time. -/
theorem portOperationsFrame : Obligations.PortOperationsFrame :=
  ⟨fun _ _ _ => exec_dispatch_frame, fun _ _ _ => exec_deliver_frame, fun _ _ _ => exec_feed_frame,
    fun _ _ => exec_reset_frame⟩

end Sys2Proof.Machine

/-! SUPPORT. Proofs of the statements about the pipeline (spec/45_pipeline.md): the operation each turn runs (R205), FEED
and the ports (R201, R202), CORE as one action on the buffer (R203, R204), what every step keeps of `Decode(s)` (R207), and
the turns that lead to the end of a run (R206). -/

namespace Sys2Proof.Machine

/-! ## FEED and the ports (R201, R202) -/

theorem exec_feed_of_ready {s : State} (h : s.buf.length < Config.bufCap) (b : Byte) :
    exec (.feed b) s = .next { s with buf := s.buf ++ [b], obs := s.obs ++ [.input b] } := by
  rw [exec_feed, (inReady_iff s).2 h, takeIf_true]
  rfl

/-- Settles O28: room in the buffer is all that FEED's guard asks for. -/
theorem feedAppendsOneByte : Obligations.FeedAppendsOneByte :=
  fun _ b h => exec_feed_of_ready h b

theorem inReady_eq_true_iff (rst : Bool) (s : State) :
    inReady rst s = true ↔ rst = false ∧ s.buf.length < Config.bufCap := by
  simp [inReady]

theorem outValid_eq_true_iff (rst : Bool) (s : State) : outValid rst s = true ↔ rst = false ∧ s.pend ≠ [] := by
  simp [outValid]

theorem outDelta_of_not_valid {rst : Bool} {s : State} (h : outValid rst s = false) : outDelta rst s = none := by
  rw [outDelta, h]
  rfl

/-- Settles O35: `out_index` and `out_value` are the two parts of the delta presented, which is `pend[0]` or none. -/
theorem portsFollowTheState : Obligations.PortsFollowTheState := by
  refine fun rst s => ⟨inReady_eq_true_iff rst s, outValid_eq_true_iff rst s, fun d rest hrst hp => ?_, fun h => ?_⟩
  · have hd : outDelta rst s = some d := hrst ▸ (outDelta_eq_some_iff s d).2 ⟨rest, hp⟩
    rw [outIndex, outValue, hd]
    exact ⟨rfl, rfl⟩
  · rw [outIndex, outValue, outDelta_of_not_valid h]
    exact ⟨rfl, rfl⟩

/-! ## The operation each turn runs (R205) -/

theorem step_of_core {s : State} (ht : s.turn = .core) (hp : s.pend = []) :
    step s = exec (decodeHead s.buf) s.advance := by
  simp [step, fetch, fetchWord, decode, ht, hp]

/-- With no delta pending, the core's turn is CORE (R203). -/
theorem step_of_core_eq_exec_core {s : State} (ht : s.turn = .core) (hp : s.pend = []) :
    step s = exec .core s.advance :=
  (step_of_core ht hp).trans (exec_core_of_pend_nil (s := s.advance) hp).symm

theorem step_of_core_pending {s : State} (ht : s.turn = .core) (hp : s.pend ≠ []) : step s = .next s.advance := by
  simp [step, fetch, ht, hp]

theorem step_of_offer {s : State} {b : Byte} (ht : s.turn = .offer b) : step s = exec (.feed b) s.advance := by
  simp [step, fetch, fetchWord, decode, ht]

theorem step_of_accept {s : State} {d : Delta} {rest : List Delta} (ht : s.turn = .accept) (hp : s.pend = d :: rest) :
    step s = exec (.deliver d) s.advance := by
  simp [step, fetch, outDelta_false, ht, hp]

theorem step_of_accept_idle {s : State} (ht : s.turn = .accept) (hp : s.pend = []) : step s = .next s.advance := by
  simp [step, fetch, outDelta_false, ht, hp]

theorem step_of_reset {s : State} (ht : s.turn = .reset) : step s = exec .reset s.advance := by
  simp [step, fetch, fetchWord, decode, decodeHost, ht]

theorem step_of_evaluate {s : State} {u : CombUnit} {w : List Byte} {i : Instr} (ht : s.turn = .evaluate u w)
    (hw : decode (unitFormat u) w = .ok i) : step s = exec i s.advance := by
  simp [step, fetch, fetchWord, ht, hw]

theorem step_of_evaluate_error {s : State} {u : CombUnit} {w : List Byte} {e : Reject} (ht : s.turn = .evaluate u w)
    (hw : decode (unitFormat u) w = .error e) : step s = .refused (.undecodable e) := by
  simp [step, fetch, fetchWord, ht, hw]

/-- A 24-bit table word placed at the head of the buffer, the core next and nothing pending, is what the step decodes. -/
theorem step_withFetchWord_24 (s : State) (w : Nat) :
    step (s.withFetchWord 24 w) =
      exec (decodeHead (paddedFrame 24 w)) { s with buf := paddedFrame 24 w, pend := [] } :=
  step_of_core (s := State.prompt .core { s with buf := paddedFrame 24 w, pend := [] }) rfl rfl

/-- Settles O38, turn by turn. -/
theorem stepRunsTheDecodedOperation : Obligations.StepRunsTheDecodedOperation := by
  refine fun s => ⟨fun ht hp i hi _ => ?_, step_of_core_pending, fun b ht => ⟨rfl, step_of_offer ht⟩,
    fun d rest => step_of_accept, step_of_accept_idle, step_of_reset, fun u w i => step_of_evaluate,
    fun u w e => step_of_evaluate_error, fun w i hi => ?_⟩
  · cases hi
    exact step_of_core ht hp
  · cases hi
    exact step_withFetchWord_24 s w

/-! ## CORE (R203, R204, R223) -/

theorem exec_core_of_pending {s : State} (hp : s.pend ≠ []) : exec .core s = .next s := by
  have hbusy : s.pend.isEmpty = false := by simpa using hp
  cases hact : syncAction s.buf with
  | wait => exact exec_core_of_wait hact
  | drop => rw [exec_core_of_drop hact, hbusy, takeIf_false]
  | extract n => rw [exec_core_of_extract hact, hbusy, takeIf_false]

/-- Settles O30: the head decodes to the operation whose effect CORE has, and a pending delta holds CORE. -/
theorem coreRunsTheSelectedOperation : Obligations.CoreRunsTheSelectedOperation :=
  fun _ => ⟨exec_core_of_pend_nil, exec_core_of_pending⟩

/-- One action from `last` and a buffer that does not wait: the event it raises, the deltas it loads, `last` after it and
the bytes it leaves (R141, R143 with R203). -/
inductive ActsTo (last : ChannelSet) (buf : List Byte) : Status → List Delta → ChannelSet → List Byte → Prop
  | drop (h : syncAction buf = .drop) : ActsTo last buf .resync [] last (buf.drop 1)
  | extract {n : Nat} (h : syncAction buf = .extract n) :
    ActsTo last buf (frameResult last (buf.take n)).1 (frameResult last (buf.take n)).2.1
      (frameResult last (buf.take n)).2.2 (buf.drop n)

theorem exists_actsTo (last : ChannelSet) {buf : List Byte} (h : syncAction buf ≠ .wait) :
    ∃ ev ds last' rest, ActsTo last buf ev ds last' rest := by
  cases hact : syncAction buf with
  | wait => exact absurd hact h
  | drop => exact ⟨_, _, _, _, .drop hact⟩
  | extract n => exact ⟨_, _, _, _, .extract hact⟩

/-- A frame loads at most one delta for each channel (R183). -/
theorem frameResult_deltas_length_le (last : ChannelSet) (f : List Byte) : (frameResult last f).2.1.length ≤ 16 := by
  unfold frameResult
  split
  · exact Nat.zero_le _
  · split
    case h_4 => exact changedDeltas_length_le _ _
    all_goals exact Nat.zero_le _

section Action

variable {last last' : ChannelSet} {buf rest : List Byte} {ev : Status} {ds : List Delta}

theorem ActsTo.length_lt (h : ActsTo last buf ev ds last' rest) : rest.length < buf.length := by
  cases h with
  | drop hact =>
    have hpos := length_pos_of_ne_wait (b := buf) (by simp [hact])
    rw [List.length_drop]
    omega
  | extract hact =>
    have ⟨hlo, _, hle⟩ := extract_bounds hact
    rw [List.length_drop]
    omega

theorem ActsTo.deltas_length_le (h : ActsTo last buf ev ds last' rest) : ds.length ≤ 16 := by
  cases h with
  | drop => exact Nat.zero_le _
  | extract => exact frameResult_deltas_length_le _ _

theorem ActsTo.eq_resync_iff (h : ActsTo last buf ev ds last' rest) : ev = .resync ↔ syncAction buf = .drop := by
  cases h with
  | drop hact => simp [hact]
  | extract hact => simp [hact, frameResult_ne_resync]

/-- R147: draining the buffer with later bytes behind it begins with this action. -/
theorem ActsTo.drain_append (h : ActsTo last buf ev ds last' rest) (e : List Byte) :
    drain last (buf ++ e) = consDrained ev ds (drain last' (rest ++ e)) := by
  cases h with
  | drop hact =>
    have happ := (syncAction_append_of_ne_wait (by simp [hact]) e).trans hact
    rw [drain_of_drop happ, drop_one_append_of_drop hact]
  | extract hact =>
    have happ := (syncAction_append_of_ne_wait (by simp [hact]) e).trans hact
    rw [drain_of_extract happ, drop_append_of_extract hact, take_append_of_extract hact]

end Action

/-- An enabled CORE is the action on the block's `last` and `buf`. -/
theorem exec_core_of_actsTo {s : State} {ev : Status} {ds : List Delta} {last' : ChannelSet} {rest : List Byte}
    (hp : s.pend = []) (h : ActsTo s.last s.buf ev ds last' rest) :
    exec .core s = .next { s with buf := rest, last := last', pend := ds, obs := s.obs ++ [.status ev] } := by
  have hempty : s.pend.isEmpty = true := List.isEmpty_iff.2 hp
  cases h with
  | drop hact =>
    rw [exec_core_of_drop hact, hempty, takeIf_true, ← hp]
    rfl
  | extract hact => rw [exec_core_of_extract hact, hempty, takeIf_true, extractEffect_eq_frameResult _ s hp]

/-- Settles O31: the enabled step is one action, which shortens the buffer and whose event tells a Drop. -/
theorem coreRaisesOneEvent : Obligations.CoreRaisesOneEvent := by
  refine fun s => ⟨fun hp hact => ?_, fun h => h.elim exec_core_of_pending exec_core_of_wait⟩
  obtain ⟨ev, ds, last', rest, h⟩ := exists_actsTo s.last hact
  exact ⟨_, ev, exec_core_of_actsTo hp h, rfl, h.eq_resync_iff, h.length_lt⟩

/-! ## What a step can be (R205) -/

/-- A unit's word decodes to an operation of that unit. -/
theorem formatOf_of_decode_unitFormat {u : CombUnit} {w : List Byte} {i : Instr}
    (h : decode (unitFormat u) w = .ok i) : formatOf i = unitFormat u := by
  cases u with
  | crc8Step | crc8 =>
    dsimp only [unitFormat, decode] at h
    split at h <;> cases h
    rfl
  | unpack => cases h; rfl
  | validate =>
    dsimp only [unitFormat, decode, decodeValidate] at h
    split at h
    · split at h
      · split at h <;> cases h
        rfl
      · cases h
    · cases h

theorem exists_step_of_evaluate {s t : State} {u : CombUnit} {w : List Byte} (ht : s.turn = .evaluate u w)
    (h : step s = .next t) : ∃ v, t = s.advance.setUnitOut v := by
  cases hw : decode (unitFormat u) w with
  | error e => cases (step_of_evaluate_error ht hw).symm.trans h
  | ok i =>
    have hfmt := formatOf_of_decode_unitFormat hw
    obtain ⟨v, hv⟩ := exists_exec_eq_setUnitOut s.advance (i := i) (by cases u <;> simp [hfmt, unitFormat])
    cases ((step_of_evaluate ht hw).trans hv).symm.trans h
    exact ⟨v, rfl⟩

/-- Settles O39, turn by turn: the turn's operation is taken where it is enabled, and otherwise the turn is used up. -/
theorem everyStepIsOneOfFour : Obligations.EveryStepIsOneOfFour := by
  intro s t h
  have idle (ht : t = s.advance) :
      t.buf = s.buf ∧ t.last = s.last ∧ t.pend = s.pend ∧ t.obs = s.obs ∧ t.agenda = s.agenda.tail := by
    subst ht
    exact ⟨rfl, rfl, rfl, rfl, rfl⟩
  cases hturn : s.turn with
  | offer b =>
    rw [step_of_offer hturn, exec_feed] at h
    obtain ⟨hr, rfl⟩ | ⟨-, ht⟩ := (takeIf_eq_next_iff _ _ _ _).1 h
    · exact .inl ⟨b, rfl, (inReady_iff s).1 hr, rfl⟩
    · exact .inr (.inr (.inr (.inr (idle ht))))
  | core =>
    by_cases hp : s.pend = []
    · rw [step_of_core_eq_exec_core hturn hp] at h
      by_cases hact : syncAction s.buf = .wait
      · cases (exec_core_of_wait (s := s.advance) hact).symm.trans h
        exact .inr (.inr (.inr (.inr (idle rfl))))
      · exact .inr (.inl ⟨rfl, hp, hact, h⟩)
    · cases (step_of_core_pending hturn hp).symm.trans h
      exact .inr (.inr (.inr (.inr (idle rfl))))
  | accept =>
    cases hp : s.pend with
    | nil =>
      cases (step_of_accept_idle hturn hp).symm.trans h
      exact .inr (.inr (.inr (.inr (hp ▸ idle rfl))))
    | cons d rest =>
      cases ((step_of_accept hturn hp).trans (deliverHandsOverTheOldest s.advance d rest hp)).symm.trans h
      exact .inr (.inr (.inl ⟨d, rest, rfl, rfl, rfl⟩))
  | reset =>
    cases ((step_of_reset hturn).trans (exec_reset _)).symm.trans h
    exact .inr (.inr (.inr (.inl ⟨rfl, rfl⟩)))
  | evaluate u w =>
    obtain ⟨v, rfl⟩ := exists_step_of_evaluate hturn h
    exact .inr (.inr (.inr (.inr ⟨rfl, rfl, rfl, rfl, rfl⟩)))

end Sys2Proof.Machine

namespace Sys2Proof.Safety

open Sys2Proof.Machine

/-! ## `Decode(s)` of the bytes fed (R207) -/

/-- What a run has given since the last RESET, the pending deltas with it, as a drained run of its own. -/
def givenSoFar (s : State) : Drained :=
  ⟨raisedEvents s, deliveredDeltas s ++ s.pend, s.last, s.buf⟩

/-- R207's agreement as one equation: `Decode(s)` is what was given, and then what the buffer gives. -/
theorem followsStream_iff (s : State) :
    FollowsStream s ↔
      ∀ e, decodeStream (fedBytes s ++ e) = (givenSoFar s).andThen (drain s.last (s.buf ++ e)) := by
  refine forall_congr' fun e => ⟨fun ⟨hd, he, hl, hr⟩ => ?_, fun h => ?_⟩
  · rw [givenSoFar, Drained.andThen, ← hd, ← he, ← hl, ← hr]
  · rw [h]
    exact ⟨rfl, rfl, rfl, rfl⟩

/-- What one more port event adds to the three views of the observation. -/
theorem views_of_obs_append {s t : State} {e : PortEvent} (h : t.obs = s.obs ++ [e]) (he : e ≠ .reset) :
    fedBytes t = fedBytes s ++ (inputOf e).toList ∧
      deliveredDeltas t = deliveredDeltas s ++ (outputOf e).toList ∧
      raisedEvents t = raisedEvents s ++ (statusOf e).toList := by
  simp only [fedBytes, deliveredDeltas, raisedEvents, h, sinceReset_append_of_ne _ he, List.filterMap_append]
  cases e <;> exact ⟨rfl, rfl, rfl⟩

/-- The agreement speaks of `buf`, `last`, `pend` and the observation alone. -/
theorem FollowsStream.of_eq {s t : State} (hs : FollowsStream s) (hbuf : t.buf = s.buf) (hlast : t.last = s.last)
    (hpend : t.pend = s.pend) (hobs : t.obs = s.obs) : FollowsStream t := by
  simpa only [FollowsStream, fedBytes, deliveredDeltas, raisedEvents, hbuf, hlast, hpend, hobs] using hs

/-- After a Reset event nothing is fed and nothing given: both sides drain the same bytes from `last` all zeros. -/
theorem followsStream_of_reset {t : State} {obs : List PortEvent} (hbuf : t.buf = []) (hlast : t.last = zeroChannels)
    (hpend : t.pend = []) (hobs : t.obs = obs ++ [.reset]) : FollowsStream t := by
  intro e
  simp [fedBytes, deliveredDeltas, raisedEvents, decodeStream, hbuf, hlast, hpend, hobs]

/-- A byte fed now is the first of the bytes that come next. -/
theorem FollowsStream.feed {s t : State} {b : Byte} (hs : FollowsStream s) (hbuf : t.buf = s.buf ++ [b])
    (hlast : t.last = s.last) (hpend : t.pend = s.pend) (hobs : t.obs = s.obs ++ [.input b]) : FollowsStream t := by
  obtain ⟨hfed, hdel, hev⟩ := views_of_obs_append hobs nofun
  rw [followsStream_iff] at hs ⊢
  intro e
  simpa [givenSoFar, Drained.andThen, hfed, hdel, hev, hbuf, hlast, hpend, inputOf, outputOf, statusOf]
    using hs (b :: e)

/-- A delta delivered moves from the pending ones to the delivered ones. -/
theorem FollowsStream.deliver {s t : State} {d : Delta} (hs : FollowsStream s) (hbuf : t.buf = s.buf)
    (hlast : t.last = s.last) (hpend : s.pend = d :: t.pend) (hobs : t.obs = s.obs ++ [.output d]) :
    FollowsStream t := by
  obtain ⟨hfed, hdel, hev⟩ := views_of_obs_append hobs nofun
  rw [followsStream_iff] at hs ⊢
  intro e
  simpa [givenSoFar, Drained.andThen, hfed, hdel, hev, hbuf, hlast, hpend, inputOf, outputOf, statusOf] using hs e

/-- An action moves its event and its deltas from what the buffer still gives to what was given. -/
theorem FollowsStream.act {s t : State} {ev : Status} (hs : FollowsStream s) (hp : s.pend = [])
    (h : ActsTo s.last s.buf ev t.pend t.last t.buf) (hobs : t.obs = s.obs ++ [.status ev]) : FollowsStream t := by
  obtain ⟨hfed, hdel, hev⟩ := views_of_obs_append hobs nofun
  rw [followsStream_iff] at hs ⊢
  intro e
  have hact := hs e
  rw [h.drain_append] at hact
  simpa [givenSoFar, Drained.andThen, consDrained, hfed, hdel, hev, hp, inputOf, outputOf, statusOf] using hact

/-- Settles O46: R205's four steps one at a time, and a turn that leaves the block as it is. -/
theorem stepKeepsFollowsStream : Obligations.StepKeepsFollowsStream := by
  intro s t hs h
  obtain ⟨b, -, -, rfl⟩ | ⟨-, hp, hact, hcore⟩ | ⟨d, rest, -, hp, rfl⟩ | ⟨-, rfl⟩ |
    ⟨hbuf, hlast, hpend, hobs, -⟩ := everyStepIsOneOfFour s t h
  · exact hs.feed rfl rfl rfl rfl
  · obtain ⟨ev, ds, last', rest, hacts⟩ := exists_actsTo s.last hact
    cases (exec_core_of_actsTo (s := s.advance) hp hacts).symm.trans hcore
    exact hs.act hp hacts rfl
  · exact hs.deliver rfl rfl hp rfl
  · exact followsStream_of_reset rfl rfl rfl rfl
  · exact hs.of_eq hbuf hlast hpend hobs

/-! ## Runs (R206, R207) -/

theorem run_keeps_followsStream {choices : List Turn} {n : Nat} {t : State}
    (h : Sys2Proof.core.run n { State.reset with agenda := choices } = .next t) : FollowsStream t :=
  run_keeps stepKeepsFollowsStream n _ t (followsStream_reset choices) h

/-- At the end of a run the buffer gives nothing more, so what was given is `Decode(s)`. -/
theorem FollowsStream.decodeStream_of_atEnd {s : State} (hs : FollowsStream s) (hend : s.atEnd) :
    decodeStream (fedBytes s) = ⟨raisedEvents s, deliveredDeltas s, s.last, s.buf⟩ := by
  obtain ⟨hp, hwait⟩ := hend
  have h := (followsStream_iff s).1 hs []
  rw [List.append_nil, List.append_nil, drain_of_wait hwait] at h
  simpa [givenSoFar, Drained.andThen, hp] using h

/-- Settles O49: every run keeps the agreement, which with no byte to come puts what was given at the front of `Decode(s)`,
and makes it the whole at the end of a run. -/
theorem outputIsAFunctionOfTheInput : Obligations.OutputIsAFunctionOfTheInput := by
  intro choices n t hrun
  have hs := run_keeps_followsStream hrun
  have h := (followsStream_iff t).1 hs []
  rw [List.append_nil] at h
  refine ⟨?_, ?_, fun hend => ?_⟩
  · rw [h]
    exact ⟨_, (List.append_assoc _ _ _).symm⟩
  · rw [h]
    exact ⟨_, rfl⟩
  · rw [hs.decodeStream_of_atEnd hend]
    exact ⟨rfl, rfl, rfl, rfl⟩

end Sys2Proof.Safety

namespace Sys2Proof.Machine

/-! ## The end of a run is in reach (R206, R148) -/

/-- At most `k` turns of the core and of a ready consumer lead to the end of a run. -/
def ReachesEnd (s : State) (k : Nat) : Prop :=
  ∃ turns : List Turn, (∀ x ∈ turns, x = .core ∨ x = .accept) ∧ turns.length ≤ k ∧
    ∃ t, Sys2Proof.core.run turns.length { s with agenda := turns } = .next t ∧ t.atEnd

theorem ReachesEnd.of_atEnd {s : State} (h : s.atEnd) (k : Nat) : ReachesEnd s k :=
  ⟨[], nofun, Nat.zero_le k, _, run_zero _, h⟩

/-- One turn before the others. -/
theorem ReachesEnd.of_step {s s' : State} {x : Turn} {j k : Nat} (hx : x = .core ∨ x = .accept)
    (hstep : ∀ turns, step { s with agenda := x :: turns } = .next { s' with agenda := turns })
    (h : ReachesEnd s' j) (hjk : j < k) : ReachesEnd s k := by
  obtain ⟨turns, honly, hlen, t, hrun, hend⟩ := h
  refine ⟨x :: turns, List.forall_mem_cons.2 ⟨hx, honly⟩, Nat.lt_of_le_of_lt hlen hjk, t, ?_, hend⟩
  exact (run_succ_of_next (hstep turns) turns.length).trans hrun

theorem ReachesEnd.of_deliver {s : State} {d : Delta} {rest : List Delta} {j k : Nat} (hp : s.pend = d :: rest)
    (h : ReachesEnd { s with pend := rest, obs := s.obs ++ [.output d] } j) (hjk : j < k) : ReachesEnd s k := by
  refine h.of_step (.inr rfl) (fun turns => ?_) hjk
  rw [step_of_accept (s := { s with agenda := .accept :: turns }) rfl hp]
  exact deliverHandsOverTheOldest { s with agenda := turns } d rest hp

theorem ReachesEnd.of_actsTo {s : State} {ev : Status} {ds : List Delta} {last' : ChannelSet} {rest : List Byte}
    {j k : Nat} (hp : s.pend = []) (hacts : ActsTo s.last s.buf ev ds last' rest)
    (h : ReachesEnd { s with buf := rest, last := last', pend := ds, obs := s.obs ++ [.status ev] } j) (hjk : j < k) :
    ReachesEnd s k := by
  refine h.of_step (.inl rfl) (fun turns => ?_) hjk
  rw [step_of_core_eq_exec_core (s := { s with agenda := .core :: turns }) rfl hp]
  exact exec_core_of_actsTo (s := { s with agenda := turns }) hp hacts

/-- A delivery takes one of the pending deltas; an action takes at least one byte, which pays for itself and for the at
most sixteen deltas it loads. -/
theorem reachesEnd (s : State) : ReachesEnd s (s.pend.length + 17 * s.buf.length) := by
  induction hk : s.pend.length + 17 * s.buf.length using Nat.strong_induction_on generalizing s with
  | _ k ih =>
    cases hp : s.pend with
    | cons d rest =>
      have hless : rest.length + 17 * s.buf.length < k := by simp [← hk, hp]
      exact (ih _ hless _ rfl).of_deliver hp hless
    | nil =>
      by_cases hact : syncAction s.buf = .wait
      · exact .of_atEnd ⟨hp, hact⟩ k
      · obtain ⟨ev, ds, last', rest, hacts⟩ := exists_actsTo s.last hact
        have hless : ds.length + 17 * rest.length < k := by
          have hbytes := hacts.length_lt
          have hdeltas := hacts.deltas_length_le
          omega
        exact (ih _ hless _ rfl).of_actsTo hp hacts hless

/-- Settles O51: the bound counts every pending delta once and every byte seventeen times. -/
theorem coreAndConsumerReachTheEnd : Obligations.CoreAndConsumerReachTheEnd :=
  reachesEnd

end Sys2Proof.Machine

/-! SUPPORT. Proofs of the statements about the exceptions (spec/60_exceptions.md): the codes of the status events
(R220), the order of the conditions (R224), that observation decides nothing (R221), and that nothing traps (R225). -/

namespace Sys2Proof.Machine

/-! ## The codes of the status events (R220) -/

theorem statusOfCode_statusCode (ev : Status) : statusOfCode (statusCode ev) = some ev := by
  cases ev <;> rfl

/-- Of the eight codes, those at the two ends stand for no event (I8). -/
theorem statusOfCode_eq_none_iff : ∀ c : BitVec 3, statusOfCode c = none ↔ c = 0 ∨ c = 7 := by
  decide

theorem statusCode_ne_unused (ev : Status) : ¬ (statusCode ev = 0 ∨ statusCode ev = 7) := by
  rw [← statusOfCode_eq_none_iff, statusOfCode_statusCode]
  exact Option.some_ne_none ev

/-- Settles O36: a code that reads back as an event is not one of the two that read as none. -/
theorem statusCodesAreOneToSix : Obligations.StatusCodesAreOneToSix :=
  ⟨fun ev => ⟨statusOfCode_statusCode ev, not_or.1 (statusCode_ne_unused ev)⟩, statusOfCode_eq_none_iff,
    rfl, rfl, rfl, rfl, rfl, rfl⟩

/-! ## The order of the conditions (R224, R66) -/

/-- L = 24 is the one length field of a payload that UNPACK takes (R6). -/
theorem length_eq_payloadRc_iff {l : Byte} {p : List Byte} (hl : p.length + 2 = l.toNat) :
    p.length = Config.payloadRc ↔ l = 24 := by
  rw [← BitVec.toNat_inj, ← hl]
  exact (Nat.add_right_cancel_iff (n := 2)).symm

/-- A complete frame of L >= 2 selects the operation of its candidate, whatever follows it. -/
theorem decodeHead_frame {l t c : Byte} {p : List Byte} (hl : p.length + 2 = l.toNat) (rest : List Byte) :
    decodeHead (Config.addr :: l :: t :: (p ++ c :: rest)) = decodeCandidate ⟨t, p, c⟩ := by
  have hfit : p.length ≤ 253 := by have := l.isLt; omega
  rw [eq_rawFrame_append hl, decodeHead_rawFrame_append hfit]

/-- Settles O32: the synchronizer's checks come first, and a complete frame's operation is that of its verdict, which the
first failing check fixes. -/
theorem priorityOfConditions : Obligations.PriorityOfConditions := by
  refine ⟨fun b rest => decodeHead_of_drop, fun buf h => ?_, fun l body h => ?_,
    fun l body rest hl h2 => decodeHead_malformed_append hl h2 rest, fun l t c p rest hl => ?_⟩
  · exact decodeHead_of_wait ((syncAction_eq_wait_iff buf).2 (h.imp_right .inl))
  · exact decodeHead_of_wait ((syncAction_addr l body).trans (if_pos h))
  · have hsel : decodeHead (0xC8 :: l :: t :: (p ++ c :: rest)) = decodeCandidate ⟨t, p, c⟩ := decodeHead_frame hl rest
    rw [hsel, decodeCandidate]
    refine ⟨fun hcrc => ?_, fun hcrc htype => ?_, fun hcrc htype h24 => ?_, fun hcrc htype h24 => ?_⟩
    · rw [validate_of_crc_ne (cand := ⟨t, p, c⟩) hcrc]
    · rw [validate_of_type_ne (cand := ⟨t, p, c⟩) hcrc htype]
    · have hne := mt (length_eq_payloadRc_iff hl).1 h24
      rw [validate_of_length_ne (cand := ⟨t, p, c⟩) hcrc htype hne]
    · obtain ⟨cs, hcs⟩ := exists_unpack_eq_some ((length_eq_payloadRc_iff hl).2 h24)
      rw [validate_of_unpack (cand := ⟨t, p, c⟩) hcrc htype hcs]

end Sys2Proof.Machine

namespace Sys2Proof.Safety

open Sys2Proof.Machine

/-! ## What a step reads: the block and the host's choices (R221) -/

section Reads

variable {s t : State} (h : SameBlock s t)
include h

theorem SameBlock.selects_eq (i : Instr) : selects s i = selects t i := by
  obtain ⟨hbuf, -, hpend, -⟩ := h
  rw [selects, selects, hbuf, hpend]

theorem SameBlock.outDelta_eq : outDelta false s = outDelta false t := by
  obtain ⟨-, -, hpend, -⟩ := h
  rw [outDelta_false, outDelta_false, hpend]

theorem SameBlock.turn_eq : s.turn = t.turn := by
  obtain ⟨-, -, -, hagenda⟩ := h
  rw [State.turn, State.turn, hagenda]

theorem SameBlock.fetch_eq : fetch s = fetch t := by
  obtain ⟨hbuf, -, hpend, -⟩ := id h
  rw [fetch, fetch, h.turn_eq, h.outDelta_eq, hbuf, hpend]

end Reads

/-! ## Every update keeps two runs alike -/

/-- From `s` to `s'` and from `t` to `t'`, the same happened to the block and the same port events were reported. -/
def Alike (s t s' t' : State) : Prop :=
  SameBlock s' t' ∧ ∃ es : List PortEvent, s'.obs = s.obs ++ es ∧ t'.obs = t.obs ++ es

theorem Alike.of_sameBlock {s t : State} (h : SameBlock s t) : Alike s t s t :=
  ⟨h, [], (List.append_nil _).symm, (List.append_nil _).symm⟩

section Updates

variable {s t s' t' : State} (h : Alike s t s' t')
include h

theorem Alike.record (e : PortEvent) : Alike s t (s'.record e) (t'.record e) := by
  obtain ⟨hsame, es, hs, ht⟩ := h
  exact ⟨hsame, es ++ [e], by simp [hs], by simp [ht]⟩

theorem Alike.raise (ev : Status) : Alike s t (s'.raise ev) (t'.raise ev) :=
  h.record _

theorem Alike.advance : Alike s t s'.advance t'.advance := by
  obtain ⟨⟨hbuf, hlast, hpend, hagenda⟩, hobs⟩ := h
  exact ⟨⟨hbuf, hlast, hpend, congrArg List.tail hagenda⟩, hobs⟩

theorem Alike.setUnitOut (v : UnitOut) : Alike s t (s'.setUnitOut v) (t'.setUnitOut v) := h

theorem Alike.dropFront (n : Nat) : Alike s t (s'.dropFront n) (t'.dropFront n) := by
  obtain ⟨⟨hbuf, hrest⟩, hobs⟩ := h
  exact ⟨⟨congrArg (List.drop n) hbuf, hrest⟩, hobs⟩

theorem Alike.append (b : Byte) : Alike s t (s'.append b) (t'.append b) := by
  obtain ⟨⟨hbuf, hrest⟩, hobs⟩ := h
  exact ⟨⟨congrArg (· ++ [b]) hbuf, hrest⟩, hobs⟩

theorem Alike.popPend : Alike s t s'.popPend t'.popPend := by
  obtain ⟨⟨hbuf, hlast, hpend, hagenda⟩, hobs⟩ := h
  exact ⟨⟨hbuf, hlast, congrArg List.tail hpend, hagenda⟩, hobs⟩

theorem Alike.clear : Alike s t s'.clear t'.clear := by
  obtain ⟨⟨-, -, -, hagenda⟩, hobs⟩ := h
  exact ⟨⟨rfl, rfl, rfl, hagenda⟩, hobs⟩

theorem Alike.dispatchSet (new : ChannelSet) : Alike s t (s'.dispatchSet new) (t'.dispatchSet new) := by
  obtain ⟨⟨hbuf, hlast, -, hagenda⟩, hobs⟩ := h
  rw [Alike, SameBlock]
  simp only [State.dispatchSet_buf, State.dispatchSet_last, State.dispatchSet_pend, State.dispatchSet_agenda,
    State.dispatchSet_obs, hlast]
  exact ⟨⟨hbuf, trivial, trivial, hagenda⟩, hobs⟩

theorem Alike.verdictEffect (v : Verdict) : Alike s t (verdictEffect v s') (verdictEffect v t') := by
  rw [verdictEffect_eq, verdictEffect_eq]
  refine Alike.raise ?_ _
  cases verdictChannels v with
  | none => exact h
  | some cs => exact h.dispatchSet cs

theorem Alike.extractEffect (n : Nat) : Alike s t (extractEffect n s') (extractEffect n t') := by
  obtain ⟨⟨hbuf, -⟩, -⟩ := id h
  unfold Machine.extractEffect
  rw [State.memRead_zero, State.memRead_zero, hbuf]
  cases candidateOf (t'.buf.take n) with
  | none => exact (h.dropFront n).raise _
  | some cand => exact (h.dropFront n).verdictEffect _

end Updates

/-! ## Every operation answers, and answers alike -/

/-- Both outcomes are next states, alike as seen from `s` and `t`. -/
def AnswersAlike (s t : State) (a b : Host.Outcome State Fault Refusal) : Prop :=
  ∃ s' t', a = .next s' ∧ b = .next t' ∧ Alike s t s' t'

theorem AnswersAlike.next {s t s' t' : State} (h : Alike s t s' t') : AnswersAlike s t (.next s') (.next t') :=
  ⟨s', t', rfl, rfl, h⟩

/-- A guard that reads the same in both states takes both steps or neither. -/
theorem AnswersAlike.takeIf {s t s' t' : State} {c d : Bool} (hcd : c = d) (hold : Alike s t s t)
    (taken : Alike s t s' t') : AnswersAlike s t (takeIf c s s') (takeIf d t t') := by
  cases hcd
  cases c
  · exact .next hold
  · exact .next taken

theorem exec_core_alike {s t : State} (h : SameBlock s t) : AnswersAlike s t (exec .core s) (exec .core t) := by
  have hold := Alike.of_sameBlock h
  obtain ⟨hbuf, -, hpend, -⟩ := h
  have hfree : s.pend.isEmpty = t.pend.isEmpty := congrArg List.isEmpty hpend
  cases hact : syncAction s.buf with
  | wait =>
    rw [exec_core_of_wait hact, exec_core_of_wait (hbuf ▸ hact)]
    exact .next hold
  | drop =>
    rw [exec_core_of_drop hact, exec_core_of_drop (hbuf ▸ hact)]
    exact .takeIf hfree hold ((hold.dropFront 1).raise _)
  | extract n =>
    rw [exec_core_of_extract hact, exec_core_of_extract (hbuf ▸ hact)]
    exact .takeIf hfree hold (hold.extractEffect n)

theorem exec_valRc_alike {s t : State} (h : SameBlock s t) (cand : Candidate) :
    AnswersAlike s t (exec (.valRc cand) s) (exec (.valRc cand) t) := by
  have hold := Alike.of_sameBlock h
  cases hu : unpack cand.payload with
  | none => simpa only [exec, execValRc, hu] using AnswersAlike.next hold
  | some cs =>
    rw [exec_valRc hu, exec_valRc hu]
    exact .takeIf (h.selects_eq _) hold (((hold.dropFront _).dispatchSet cs).raise _)

/-- Every operation answers a next state, and one that only the block decides. -/
theorem exec_alike {s t : State} (h : SameBlock s t) (i : Instr) : AnswersAlike s t (exec i s) (exec i t) := by
  have hold := Alike.of_sameBlock h
  have hsel := h.selects_eq
  obtain ⟨hbuf, -, hpend, -⟩ := id h
  cases i with
  | crc8Step | crc8 | unpack | validate => exact .next (hold.setUnitOut _)
  | syncWait => exact .next hold
  | syncDrop b => exact .takeIf (hsel _) hold ((hold.dropFront 1).raise _)
  | syncExtract n => exact .takeIf (by rw [hbuf, hpend]) hold (hold.extractEffect n)
  | frameMalformed | valCrcFail | valIgnore | valRcBadLen =>
    exact .takeIf (hsel _) hold ((hold.dropFront _).raise _)
  | valRc cand => exact exec_valRc_alike h cand
  | dispatch new => exact .takeIf (by rw [hpend]) hold (hold.dispatchSet new)
  | deliver d => exact .takeIf (by rw [h.outDelta_eq]) hold (hold.popPend.record _)
  | feed b => exact .takeIf (by rw [inReady, inReady, hbuf]) hold ((hold.append b).record _)
  | core => exact exec_core_alike h
  | reset => exact .next (hold.clear.record _)

/-- Settles O37: both steps find the same to do, and then run one operation alike, use up the turn, or are refused for one
reason. -/
theorem observationDecidesNothing : Obligations.ObservationDecidesNothing := by
  intro s t h
  have hadv := (Alike.of_sameBlock h).advance
  rw [step, step, ← h.fetch_eq]
  cases fetch s with
  | run i =>
    obtain ⟨s', t', hs, ht, halike⟩ := exec_alike hadv.1 i
    simp only [hs, ht]
    exact halike
  | hold => exact hadv
  | reject e => rfl

/-! ## Nothing traps (R225) -/

theorem exists_exec_eq_next (i : Instr) (s : State) : ∃ t, exec i s = .next t := by
  obtain ⟨t, -, ht, -⟩ := exec_alike (s := s) (t := s) ⟨rfl, rfl, rfl, rfl⟩ i
  exact ⟨t, ht⟩

/-- Settles O40, turn by turn: an agent's turn runs an operation or is used up, and a bench's word alone can be
refused. -/
theorem nothingTraps : Obligations.NothingTraps := by
  refine ⟨exists_exec_eq_next, fun s => ?_⟩
  cases hturn : s.turn with
  | core =>
    by_cases hp : s.pend = []
    · exact .inl (step_of_core hturn hp ▸ exists_exec_eq_next _ _)
    · exact .inl ⟨_, step_of_core_pending hturn hp⟩
  | offer b => exact .inl (step_of_offer hturn ▸ exists_exec_eq_next _ _)
  | accept =>
    cases hp : s.pend with
    | nil => exact .inl ⟨_, step_of_accept_idle hturn hp⟩
    | cons d rest => exact .inl (step_of_accept hturn hp ▸ exists_exec_eq_next _ _)
  | reset => exact .inl (step_of_reset hturn ▸ exists_exec_eq_next _ _)
  | evaluate u w =>
    cases hw : decode (unitFormat u) w with
    | ok i => exact .inl (step_of_evaluate hturn hw ▸ exists_exec_eq_next _ _)
    | error e => exact .inr ⟨u, w, e, rfl, step_of_evaluate_error hturn hw⟩

end Sys2Proof.Safety

/-! SUPPORT. Proofs of the statements about reset and hazards (spec/70_reset_and_hazards.md): RESET's values (R250), a
consumer's view (R259), backpressure (R257), and what happens in a fair run (R262). -/

namespace Sys2Proof.Safety

open Sys2Proof.Machine

/-! ## RESET (R250) -/

/-- Settles O33: RESET's assignments name no old value, so a second one finds what it writes. -/
theorem resetRestoresTheInitialState : Obligations.ResetRestoresTheInitialState := by
  intro s
  refine ⟨_, exec_reset s, rfl, zeroChannels_getElem, rfl, ?_, _, exec_reset _, rfl, rfl, rfl⟩
  rw [State.record_obs, List.filterMap_append]
  exact List.append_nil _

/-! ## A consumer's view (R259) -/

theorem viewAfter_append (view : ChannelSet) (ds es : List Delta) :
    viewAfter view (ds ++ es) = viewAfter (viewAfter view ds) es :=
  List.foldl_append

/-- One delta writes its own channel of the view alone. -/
theorem viewStep_getElem (view : ChannelSet) (d : Delta) (i : Fin 16) :
    (viewStep view d)[i] = if d.index = i then d.value.setWidth 11 else view[i] := by
  split
  · subst i
    exact Vector.getElem_set_self d.index.isLt
  · exact Vector.getElem_set_ne d.index.isLt i.isLt (Fin.val_ne_of_ne ‹_›)

/-- The channels of the view are independent: each takes the values of the deltas with its own index, in order. -/
theorem viewAfter_getElem (view : ChannelSet) (ds : List Delta) (i : Fin 16) :
    (viewAfter view ds)[i] =
      (ds.filter fun d => d.index = i).foldl (fun _ d => d.value.setWidth 11) view[i] := by
  induction ds generalizing view with
  | nil => rfl
  | cons d ds ih =>
    refine (ih (viewStep view d)).trans ?_
    rw [viewStep_getElem]
    by_cases h : d.index = i <;> simp [h]

/-- Zero-extension to 16 bits and back to 11 loses nothing (R181, R259). -/
theorem setWidth_setWidth_chan (v : Chan) : (v.setWidth 16).setWidth 11 = v := by
  rw [BitVec.setWidth_setWidth_of_le _ (by decide), BitVec.setWidth_eq]

/-- A view of `last` that applies DISPATCH's deltas is the new set: each channel has its own lane's delta, or none. -/
theorem viewAfter_changedDeltas (last new : ChannelSet) : viewAfter last (changedDeltas last new) = new := by
  ext i hi : 1
  have hlane := viewAfter_getElem last (changedDeltas last new) ⟨i, hi⟩
  rw [changedDeltas_filter_index] at hlane
  refine hlane.trans ?_
  by_cases h : new[(⟨i, hi⟩ : Fin 16)] = last[(⟨i, hi⟩ : Fin 16)]
  · rw [laneDelta_of_eq h]
    exact h.symm
  · rw [laneDelta_of_ne h]
    exact setWidth_setWidth_chan _

/-- The deltas a frame loads take a view of `last` to `last` after the frame. -/
theorem viewAfter_frameResult (last : ChannelSet) (f : List Byte) :
    viewAfter last (frameResult last f).2.1 = (frameResult last f).2.2 := by
  unfold frameResult
  split
  · rfl
  · split
    case h_4 cs _ => exact (viewAfter_changedDeltas last cs).trans (updatedLast_eq last cs).symm
    all_goals rfl

theorem viewAfter_of_actsTo {last last' : ChannelSet} {buf rest : List Byte} {ev : Status} {ds : List Delta}
    (h : ActsTo last buf ev ds last' rest) : viewAfter last ds = last' := by
  cases h with
  | drop => rfl
  | extract => exact viewAfter_frameResult last _

/-- The agreement speaks of `last` and of the deltas since the last RESET, delivered or pending, alone. -/
theorem ViewFollows.of_eq {s t : State} (hs : ViewFollows s)
    (hgiven : deliveredDeltas t ++ t.pend = deliveredDeltas s ++ s.pend) (hlast : t.last = s.last) : ViewFollows t := by
  rw [ViewFollows, hgiven, hlast]
  exact hs

/-- After a Reset event no delta is given, and `last` is the view's sixteen zeros. -/
theorem viewFollows_of_reset {t : State} {obs : List PortEvent} (hlast : t.last = zeroChannels) (hpend : t.pend = [])
    (hobs : t.obs = obs ++ [.reset]) : ViewFollows t := by
  rw [ViewFollows, deliveredDeltas, hobs, sinceReset_append_reset, hpend, hlast]
  rfl

/-- A FEED gives no delta. -/
theorem ViewFollows.feed {s t : State} {b : Byte} (hs : ViewFollows s) (hlast : t.last = s.last)
    (hpend : t.pend = s.pend) (hobs : t.obs = s.obs ++ [.input b]) : ViewFollows t := by
  obtain ⟨-, hdel, -⟩ := views_of_obs_append hobs nofun
  exact hs.of_eq (by simp [hdel, hpend, outputOf]) hlast

/-- A delta delivered moves from the pending ones to the delivered ones. -/
theorem ViewFollows.deliver {s t : State} {d : Delta} (hs : ViewFollows s) (hlast : t.last = s.last)
    (hpend : s.pend = d :: t.pend) (hobs : t.obs = s.obs ++ [.output d]) : ViewFollows t := by
  obtain ⟨-, hdel, -⟩ := views_of_obs_append hobs nofun
  exact hs.of_eq (by simp [hdel, hpend, outputOf]) hlast

/-- An action with nothing pending puts its deltas behind the delivered ones. -/
theorem ViewFollows.act {s t : State} {ev : Status} (hs : ViewFollows s) (hp : s.pend = [])
    (h : ActsTo s.last s.buf ev t.pend t.last t.buf) (hobs : t.obs = s.obs ++ [.status ev]) : ViewFollows t := by
  obtain ⟨-, hdel, -⟩ := views_of_obs_append hobs nofun
  rw [ViewFollows, hp, List.append_nil] at hs
  calc viewAfter zeroChannels (deliveredDeltas t ++ t.pend)
      = viewAfter (viewAfter zeroChannels (deliveredDeltas s)) t.pend := by
        rw [hdel, outputOf, Option.toList_none, List.append_nil, viewAfter_append]
    _ = viewAfter s.last t.pend := by rw [hs]
    _ = t.last := viewAfter_of_actsTo h

/-- Settles O47: of R205's four steps, FEED and DELIVER keep the deltas given and pending, CORE adds those that turn the
old `last` into the new one, and RESET starts both sides again. -/
theorem stepKeepsViewFollows : Obligations.StepKeepsViewFollows := by
  intro s t hs h
  obtain ⟨b, -, -, rfl⟩ | ⟨-, hp, hact, hcore⟩ | ⟨d, rest, -, hp, rfl⟩ | ⟨-, rfl⟩ |
    ⟨-, hlast, hpend, hobs, -⟩ := everyStepIsOneOfFour s t h
  · exact hs.feed rfl rfl rfl
  · obtain ⟨ev, ds, last', rest, hacts⟩ := exists_actsTo s.last hact
    cases (exec_core_of_actsTo (s := s.advance) hp hacts).symm.trans hcore
    exact hs.act hp hacts rfl
  · exact hs.deliver rfl hp rfl
  · exact viewFollows_of_reset rfl rfl rfl
  · exact hs.of_eq (by rw [deliveredDeltas, deliveredDeltas, hobs, hpend]) hlast

/-- Settles O50: every run from reset keeps the agreement, and with no delta pending the delivered ones are all. -/
theorem consumerViewEqualsLast : Obligations.ConsumerViewEqualsLast := by
  intro choices n t hrun hp
  have hview : ViewFollows t := run_keeps stepKeepsViewFollows n _ t (viewFollows_reset choices) hrun
  rwa [ViewFollows, hp, List.append_nil] at hview

end Sys2Proof.Safety

namespace Sys2Proof.Machine

/-! ## Backpressure (R43, R257) -/

/-- The byte a turn offers. -/
def offeredByte : Turn → Option Byte
  | .offer b => some b
  | _ => none

/-- An offer to a buffer with room is a FEED. -/
theorem step_of_offer_ready {s : State} {b : Byte} (ht : s.turn = .offer b) (h : s.buf.length < Config.bufCap) :
    step s = .next { s.advance with buf := s.buf ++ [b], obs := s.obs ++ [.input b] } :=
  (step_of_offer ht).trans (exec_feed_of_ready (s := s.advance) h b)

/-- An offer to a full buffer is not taken (R43). -/
theorem step_of_offer_full {s : State} {b : Byte} (ht : s.turn = .offer b) (h : Config.bufCap ≤ s.buf.length) :
    step s = .next s.advance :=
  (step_of_offer ht).trans (exec_feed_of_not_ready (s := s.advance) ((inReady_eq_false_iff s.advance).2 h) b)

/-- A byte taken into a buffer with room is the first of the bytes it takes. -/
theorem append_take_room {buf : List Byte} {cap : Nat} (h : buf.length < cap) (b : Byte) (bytes : List Byte) :
    buf ++ [b] ++ bytes.take (cap - (buf ++ [b]).length) = buf ++ (b :: bytes).take (cap - buf.length) := by
  rw [List.take_cons (Nat.sub_pos_of_lt h), List.length_append, List.length_singleton, Nat.sub_sub, List.append_assoc,
    List.singleton_append]

/-- With a delta pending the core holds, and the offers fill the buffer in order as far as it has room. -/
theorem run_of_pending {turns : List Turn} (honly : ∀ x ∈ turns, x = .core ∨ ∃ b, x = .offer b) {s : State}
    (hp : s.pend ≠ []) (hs : s.agenda = turns) :
    ∃ t, Sys2Proof.core.run turns.length s = .next t ∧ t.pend = s.pend ∧ t.last = s.last ∧
      t.buf = s.buf ++ (turns.filterMap offeredByte).take (Config.bufCap - s.buf.length) := by
  induction turns generalizing s with
  | nil => exact ⟨s, run_zero s, rfl, rfl, by simp⟩
  | cons x turns ih =>
    obtain ⟨hx, hothers⟩ := List.forall_mem_cons.1 honly
    have hturn : s.turn = x := by rw [State.turn, hs]; rfl
    have hrest : s.agenda.tail = turns := by rw [hs]; rfl
    obtain rfl | ⟨b, rfl⟩ := hx
    · obtain ⟨t, hrun, h⟩ := ih hothers (s := s.advance) hp hrest
      exact ⟨t, (run_succ_of_next (step_of_core_pending hturn hp) _).trans hrun, h⟩
    · by_cases hroom : s.buf.length < Config.bufCap
      · obtain ⟨t, hrun, hpend, hlast, hbuf⟩ :=
          ih hothers (s := { s.advance with buf := s.buf ++ [b], obs := s.obs ++ [.input b] }) hp hrest
        exact ⟨t, (run_succ_of_next (step_of_offer_ready hturn hroom) _).trans hrun, hpend, hlast,
          hbuf.trans (append_take_room hroom b _)⟩
      · have hfull : Config.bufCap ≤ s.buf.length := Nat.not_lt.1 hroom
        obtain ⟨t, hrun, hpend, hlast, hbuf⟩ := ih hothers (s := s.advance) hp hrest
        refine ⟨t, (run_succ_of_next (step_of_offer_full hturn hfull) _).trans hrun, hpend, hlast, ?_⟩
        rw [hbuf, State.advance_buf, Nat.sub_eq_zero_of_le hfull, List.take_zero, List.take_zero]

/-- Settles O55: the pending delta stays, so the core holds at each of its turns, and only the offers act. -/
theorem backpressureLosesNothing : Obligations.BackpressureLosesNothing := by
  rintro s turns bytes hp - honly rfl
  exact run_of_pending honly (s := { s with agenda := turns }) hp rfl

/-! ## Fair runs exist (R262) -/

/-- Round by round, the producer's offer, the core's turn and the consumer's. -/
def roundTurn (offers : Nat → Byte) (n : Nat) : Turn :=
  if n % 3 = 0 then .offer (offers (n / 3)) else if n % 3 = 1 then .core else .accept

theorem roundTurn_offer (offers : Nat → Byte) (k : Nat) : roundTurn offers (3 * k) = .offer (offers k) := by
  rw [roundTurn, if_pos (Nat.mul_mod_right 3 k), Nat.mul_div_cancel_left k (by decide)]

theorem roundTurn_core (offers : Nat → Byte) (k : Nat) : roundTurn offers (3 * k + 1) = .core := by
  rw [roundTurn, if_neg (by omega), if_pos (by omega)]

theorem roundTurn_accept (offers : Nat → Byte) (k : Nat) : roundTurn offers (3 * k + 2) = .accept := by
  rw [roundTurn, if_neg (by omega), if_neg (by omega)]

theorem roundTurn_cases (offers : Nat → Byte) (n : Nat) :
    (∃ b, roundTurn offers n = .offer b) ∨ roundTurn offers n = .core ∨ roundTurn offers n = .accept := by
  unfold roundTurn
  split
  · exact .inl ⟨_, rfl⟩
  · split
    · exact .inr (.inl rfl)
    · exact .inr (.inr rfl)

/-- Every turn of an agent of R200 has a next state: a bench's word alone can be refused. -/
theorem exists_step_of_not_evaluate {x : Turn} (hx : ∀ u w, x ≠ .evaluate u w) (s : State) :
    ∃ t, step { s with agenda := [x] } = .next t := by
  obtain h | ⟨u, w, e, ht, -⟩ := Safety.nothingTraps.2 { s with agenda := [x] }
  · exact h
  · exact absurd ht (hx u w)

/-- What steps with a next state for each choice allow: an unending sequence of states from any first one. -/
theorem exists_states {turns : Nat → Turn} (h : ∀ n (s : State), ∃ t, step { s with agenda := [turns n] } = .next t)
    (s : State) :
    ∃ states : Nat → State,
      states 0 = s ∧ ∀ n, step { states n with agenda := [turns n] } = .next (states (n + 1)) := by
  choose next hnext using h
  exact ⟨fun n => Nat.rec s next n, rfl, fun n => hnext n _⟩

/-- Settles O52: in rounds of three turns each agent moves again and again, so both assumptions hold whatever is
enabled. -/
theorem fairRunsExist : Obligations.FairRunsExist := by
  intro s offers
  have hagent (n : Nat) : roundTurn offers n ≠ .reset ∧ ∀ u w, roundTurn offers n ≠ .evaluate u w := by
    obtain ⟨b, h⟩ | h | h := roundTurn_cases offers n <;> rw [h] <;> exact ⟨nofun, nofun⟩
  obtain ⟨states, hzero, hstates⟩ := exists_states (fun n => exists_step_of_not_evaluate (hagent n).2) s
  exact ⟨roundTurn offers, states, hzero,
    ⟨⟨hstates, fun _ _ => rfl⟩, fun n _ => ⟨3 * n + 1, by omega, roundTurn_core offers n⟩,
      fun n _ => ⟨3 * n + 2, by omega, roundTurn_accept offers n⟩⟩,
    roundTurn_offer offers, fun n => (hagent n).1⟩

/-! ## Runs without end, turn by turn (R205) -/

/-- What holds until an event comes holds when it first comes, or the event never comes. -/
theorem first_or_never {event holds : Nat → Prop} (hzero : holds 0)
    (hsucc : ∀ j, holds j → ¬ event j → holds (j + 1)) :
    (∃ j, (∀ i, i < j → ¬ event i) ∧ holds j ∧ event j) ∨ ∀ j, ¬ event j ∧ holds j := by
  have huntil (j : Nat) (hnot : ∀ i, i < j → ¬ event i) : holds j := by
    induction j with
    | zero => exact hzero
    | succ j ih => exact hsucc j (ih fun i hi => hnot i (hi.trans j.lt_succ_self)) (hnot j j.lt_succ_self)
  by_cases hev : ∃ j, event j
  · classical
    exact .inl ⟨Nat.find hev, fun _ => Nat.find_min hev, huntil _ fun _ => Nat.find_min hev, Nat.find_spec hev⟩
  · have hnever := not_exists.1 hev
    exact .inr fun j => ⟨hnever j, huntil j fun i _ => hnever i⟩

/-- An action takes one byte for a Drop and the frame for an Extract from the front of the buffer, and nothing else. -/
theorem ActsTo.exists_drop {last last' : ChannelSet} {buf rest : List Byte} {ev : Status} {ds : List Delta}
    (h : ActsTo last buf ev ds last' rest) :
    ∃ c, 0 < c ∧ c ≤ buf.length ∧ rest = buf.drop c ∧
      (syncAction buf = .drop ∧ c = 1 ∨ syncAction buf = .extract c) := by
  cases h with
  | drop hact => exact ⟨1, Nat.one_pos, length_pos_of_ne_wait (by simp [hact]), rfl, .inl ⟨hact, rfl⟩⟩
  | @extract n hact =>
    have ⟨hlo, _, hle⟩ := extract_bounds hact
    exact ⟨n, by omega, hle, rfl, .inr hact⟩

/-- A turn in which the core takes no step and no RESET comes keeps the bytes of the buffer where they are; without a
delta handed over, `pend` too. -/
theorem step_keeps_buf_pend {s t : State} (h : step s = .next t) (hreset : s.turn ≠ .reset)
    (hcore : s.turn = .core → ¬ s.coreEnabled) :
    s.buf <+: t.buf ∧ ((s.turn = .accept → s.pend = []) → t.pend = s.pend) := by
  obtain ⟨b, -, -, rfl⟩ | ⟨ht, hp, hact, -⟩ | ⟨d, rest, ht, hp, rfl⟩ | ⟨ht, -⟩ | ⟨hbuf, -, hpend, -⟩ :=
    everyStepIsOneOfFour s t h
  · exact ⟨⟨[b], rfl⟩, fun _ => rfl⟩
  · exact absurd ⟨hp, hact⟩ (hcore ht)
  · exact ⟨List.prefix_rfl, fun hidle => absurd (hp.symm.trans (hidle ht)) (List.cons_ne_nil d rest)⟩
  · exact absurd ht hreset
  · exact ⟨hbuf ▸ List.prefix_rfl, fun _ => hpend⟩

section Run

variable {turns : Nat → Turn} {ready : Nat → Bool} {states : Nat → State} {n m k j : Nat}

/-- An enabled turn of the core is one action (R203). -/
theorem UnendingRun.act (h : UnendingRun turns ready states) (ht : turns m = .core) (he : (states m).coreEnabled) :
    ∃ ev, ActsTo (states m).last (states m).buf ev (states (m + 1)).pend (states (m + 1)).last
      (states (m + 1)).buf := by
  obtain ⟨hp, hact⟩ := he
  obtain ⟨ev, ds, last', rest, hacts⟩ := exists_actsTo (states m).last hact
  have hstep := h.1 m
  rw [ht, step_of_core_eq_exec_core (s := { states m with agenda := [.core] }) rfl hp] at hstep
  injection (exec_core_of_actsTo (s := { states m with agenda := [] }) hp hacts).symm.trans hstep with hnext
  exact ⟨ev, hnext ▸ hacts⟩

/-- A ready consumer's turn hands the oldest delta over (R185). -/
theorem UnendingRun.deliver (h : UnendingRun turns ready states) (ht : turns m = .accept) {d : Delta}
    {rest : List Delta} (hp : (states m).pend = d :: rest) :
    (states (m + 1)).pend = rest ∧ (states (m + 1)).obs = (states m).obs ++ [.output d] := by
  have hstep := h.1 m
  rw [ht, step_of_accept (s := { states m with agenda := [.accept] }) rfl hp] at hstep
  injection (deliverHandsOverTheOldest { states m with agenda := [] } d rest hp).symm.trans hstep with hnext
  rw [← hnext]
  exact ⟨rfl, rfl⟩

theorem UnendingRun.buf_grows (h : UnendingRun turns ready states) (hreset : turns m ≠ .reset)
    (hcore : turns m = .core → ¬ (states m).coreEnabled) : (states m).buf <+: (states (m + 1)).buf :=
  (step_keeps_buf_pend (h.1 m) hreset hcore).1

theorem UnendingRun.pend_eq (h : UnendingRun turns ready states) (hreset : turns m ≠ .reset)
    (hcore : turns m = .core → ¬ (states m).coreEnabled) (hacc : turns m = .accept → (states m).pend = []) :
    (states (m + 1)).pend = (states m).pend :=
  (step_keeps_buf_pend (h.1 m) hreset hcore).2 hacc

/-! ## Every delta is delivered (R262, R185) -/

theorem KeepsAccepting.mono (h : KeepsAccepting ready states n) (hnm : n ≤ m) : KeepsAccepting ready states m :=
  fun i hi => h i (hnm.trans hi)

/-- With a delta pending, `pend` stays as it is until the consumer's turn or a RESET, and one of the two comes. -/
theorem FairRun.exists_accept (h : FairRun turns ready states) (hk : KeepsAccepting ready states n)
    (hp : (states n).pend ≠ []) :
    ∃ j, (∀ i, i < j → turns (n + i) ≠ .reset) ∧ (states (n + j)).pend = (states n).pend ∧
      (turns (n + j) = .reset ∨ turns (n + j) = .accept) := by
  obtain ⟨hrun, -, hfair⟩ := h
  have hkeep (j : Nat) (hj : (states (n + j)).pend = (states n).pend)
      (hnot : ¬ (turns (n + j) = .reset ∨ turns (n + j) = .accept)) :
      (states (n + (j + 1))).pend = (states n).pend := by
    obtain ⟨hreset, haccept⟩ := not_or.1 hnot
    exact (hrun.pend_eq hreset (fun _ he => hp (hj.symm.trans he.1)) fun ht => absurd ht haccept).trans hj
  obtain ⟨j, hnot, hj, hev⟩ | hnever := first_or_never (holds := fun j => (states (n + j)).pend = (states n).pend)
    rfl hkeep
  · exact ⟨j, fun i hi hr => hnot i hi (.inl hr), hj, hev⟩
  · have henabled (i : Nat) (hi : n ≤ i) : (states i).deliverEnabled (ready i) := by
      obtain ⟨j, rfl⟩ := Nat.exists_eq_add_of_le hi
      have hpend : (states (n + j)).pend ≠ [] := (hnever j).2 ▸ hp
      exact ⟨hpend, hk _ hi hpend⟩
    obtain ⟨i, hi, ht⟩ := hfair n henabled
    obtain ⟨j, rfl⟩ := Nat.exists_eq_add_of_le hi
    exact absurd (.inr ht) (hnever j).1

/-- Settles O53, by induction on the deltas before this one: the consumer's turn comes, and hands the oldest over. -/
theorem fairRunsDeliverEveryDelta : Obligations.FairRunsDeliverEveryDelta := by
  intro turns ready states n front back d h hk hp
  induction front generalizing n with
  | nil =>
    obtain ⟨j, hnot, hj, hreset | haccept⟩ := h.exists_accept hk (by simp [hp])
    · exact ⟨j, [], hnot, hj.trans hp, .inl hreset⟩
    · exact ⟨j, [], hnot, hj.trans hp, .inr ⟨haccept, rfl, h.1.deliver haccept (hj.trans hp)⟩⟩
  | cons e front ih =>
    obtain ⟨j, hnot, hj, hreset | haccept⟩ := h.exists_accept hk (by simp [hp])
    · exact ⟨j, e :: front, hnot, hj.trans hp, .inl hreset⟩
    · obtain ⟨hnext, -⟩ := h.1.deliver haccept (hj.trans hp)
      obtain ⟨i, before, hnot', hrest⟩ := ih (n + j + 1) (hk.mono (by omega)) hnext
      rw [show n + j + 1 + i = n + (j + 1 + i) by omega] at hrest
      refine ⟨j + 1 + i, before, fun x hx => ?_, hrest⟩
      obtain hlt | rfl | hgt := Nat.lt_trichotomy x j
      · exact hnot x hlt
      · simp [haccept]
      · have hx' := hnot' (x - (j + 1)) (by omega)
        rwa [show n + j + 1 + (x - (j + 1)) = n + x by omega] at hx'

/-- Without a RESET the last of the pending deltas is handed over too, and then none is pending. -/
theorem FairRun.exists_pend_nil (h : FairRun turns ready states) (hk : KeepsAccepting ready states n)
    (hreset : ∀ m, n ≤ m → turns m ≠ .reset) : ∃ m, n ≤ m ∧ (states m).pend = [] := by
  obtain hp | ⟨front, d, hp⟩ := (states n).pend.eq_nil_or_concat
  · exact ⟨n, Nat.le_refl n, hp⟩
  · obtain ⟨j, -, -, -, hr | ⟨-, -, hnil, -⟩⟩ := fairRunsDeliverEveryDelta _ _ _ n front [] d h hk (by simpa using hp)
    · exact absurd hr (hreset _ (Nat.le_add_right n j))
    · exact ⟨n + j + 1, by omega, hnil⟩

/-! ## Every byte is taken, or waits at the end of the run (R262, R52) -/

theorem UnendingRun.takenAt_eq_zero (h : UnendingRun turns ready states) (hreset : turns m ≠ .reset)
    (hcore : turns m = .core → ¬ (states m).coreEnabled) : takenAt turns states m = 0 := by
  by_cases ht : turns m = .core
  · rw [takenAt_core ht]
    exact Nat.sub_eq_zero_of_le (h.buf_grows hreset hcore).length_le
  · exact takenAt_of_ne ht

/-- An action takes as many bytes as its turn is counted for. -/
theorem takenAt_of_drop {c : Nat} (ht : turns m = .core) (hle : c ≤ (states m).buf.length)
    (hbuf : (states (m + 1)).buf = (states m).buf.drop c) : takenAt turns states m = c := by
  rw [takenAt_core ht, hbuf, List.length_drop]
  omega

/-- A byte that stands before a turn without a RESET is taken in that turn, or stands after it. -/
theorem ByteStands.succ (h : UnendingRun turns ready states) (hlt : k < (states n).buf.length)
    (hs : ByteStands turns states n k j) (hreset : turns (n + j) ≠ .reset) (hnot : ¬ ByteTaken turns states n k j) :
    ByteStands turns states n k (j + 1) := by
  obtain ⟨hle, hbyte⟩ := hs
  by_cases hact : turns (n + j) = .core ∧ (states (n + j)).coreEnabled
  · obtain ⟨ht, he⟩ := hact
    obtain ⟨ev, hacts⟩ := h.act ht he
    obtain ⟨c, -, hc, hbuf, hkind⟩ := hacts.exists_drop
    have hbehind : takenFrom turns states n j + c ≤ k := by
      obtain ⟨hdrop, rfl⟩ | hextract := hkind
      · have hne : k ≠ takenFrom turns states n j := fun hk => hnot ⟨ht, he, .inl ⟨hdrop, hk⟩⟩
        omega
      · exact Nat.le_of_not_lt fun hin => hnot ⟨ht, he, .inr ⟨c, hextract, hin⟩⟩
    have htaken : takenFrom turns states n (j + 1) = takenFrom turns states n j + c := by
      rw [takenFrom_succ, takenAt_of_drop ht hc hbuf]
    refine ⟨htaken.trans_le hbehind, ?_⟩
    rw [htaken, ← Nat.add_assoc, hbuf, List.getElem?_drop, ← hbyte]
    congr 1
    omega
  · have hcore : turns (n + j) = .core → ¬ (states (n + j)).coreEnabled := fun ht he => hact ⟨ht, he⟩
    have htaken : takenFrom turns states n (j + 1) = takenFrom turns states n j := by
      rw [takenFrom_succ, h.takenAt_eq_zero hreset hcore, Nat.add_zero]
    obtain ⟨e, hbuf⟩ := h.buf_grows hreset hcore
    have hplace : k - takenFrom turns states n j < (states (n + j)).buf.length :=
      (List.getElem?_eq_some_iff.1 (hbyte.trans (List.getElem?_eq_getElem hlt))).1
    refine ⟨htaken.trans_le hle, ?_⟩
    rw [htaken, ← Nat.add_assoc, ← hbuf, List.getElem?_append_left hplace, hbyte]

/-- Where the bytes taken stay within a bound, the core takes a step only so long as their number grows. -/
theorem UnendingRun.exists_quiet (h : UnendingRun turns ready states) (hle : ∀ j, takenFrom turns states n j ≤ k) :
    ∃ i, ∀ m, n + i ≤ m → turns m = .core → ¬ (states m).coreEnabled := by
  obtain ⟨i, hmax⟩ : ∃ i, ∀ j, k - takenFrom turns states n i ≤ k - takenFrom turns states n j :=
    ⟨_, fun j => Function.argmin_le (fun j => k - takenFrom turns states n j) j⟩
  refine ⟨i, fun m hm ht he => ?_⟩
  obtain ⟨j, rfl⟩ := Nat.exists_eq_add_of_le ((Nat.le_add_right n i).trans hm)
  obtain ⟨ev, hacts⟩ := h.act ht he
  obtain ⟨c, hpos, hc, hbuf, -⟩ := hacts.exists_drop
  have hgrows : takenFrom turns states n (j + 1) = takenFrom turns states n j + c := by
    rw [takenFrom_succ, takenAt_of_drop ht hc hbuf]
  have hmono := takenFrom_mono turns states n (Nat.le_of_add_le_add_left hm)
  have hleft := hmax (j + 1)
  have hbound := hle (j + 1)
  omega

/-- Once no RESET comes and the core takes no step, the pending deltas go, and fairness leaves no action enabled. -/
theorem FairRun.exists_atEnd (h : FairRun turns ready states) (hk : KeepsAccepting ready states n)
    (hreset : ∀ m, n ≤ m → turns m ≠ .reset) (hquiet : ∀ m, n ≤ m → turns m = .core → ¬ (states m).coreEnabled) :
    ∃ i, n ≤ i ∧ ∀ m, i ≤ m → (states m).atEnd := by
  have ⟨hrun, hfair, _⟩ := h
  obtain ⟨i, hi, hp⟩ := h.exists_pend_nil hk hreset
  have hpend : ∀ m, i ≤ m → (states m).pend = [] :=
    Nat.le_induction hp fun m hm hpm =>
      (hrun.pend_eq (hreset m (hi.trans hm)) (hquiet m (hi.trans hm)) fun _ => hpm).trans hpm
  refine ⟨i, hi, fun m hm => ⟨hpend m hm, by_contra fun hact => ?_⟩⟩
  have hstays : ∀ x, m ≤ x → syncAction (states x).buf ≠ .wait := by
    refine Nat.le_induction hact fun x hx hactx => ?_
    have hnx := (hi.trans hm).trans hx
    obtain ⟨e, hbuf⟩ := hrun.buf_grows (hreset x hnx) (hquiet x hnx)
    rwa [← hbuf, syncAction_append_of_ne_wait hactx]
  have henabled (x : Nat) (hx : m ≤ x) : (states x).coreEnabled := ⟨hpend x (hm.trans hx), hstays x hx⟩
  obtain ⟨x, hx, ht⟩ := hfair m henabled
  exact hquiet x ((hi.trans hm).trans hx) ht (henabled x hx)

end Run

/-- Settles O54: the byte stands until it is taken or a RESET comes. If neither comes, no more bytes are taken than
stood before it, so from some turn on the core takes no step, and the run comes to its end. -/
theorem fairRunsConsumeEveryByte : Obligations.FairRunsConsumeEveryByte := by
  intro turns ready states n k h hk hlt
  obtain ⟨j, hnot, hj, hev⟩ | hnever :=
    first_or_never (event := fun j => turns (n + j) = .reset ∨ ByteTaken turns states n k j)
      (holds := ByteStands turns states n k) (byteStands_zero turns states n k) fun j hs hnot =>
        hs.succ h.1 hlt (fun hr => hnot (.inl hr)) fun ht => hnot (.inr ht)
  · exact .inl ⟨j, fun i hi hr => hnot i hi (.inl hr), hj, hev⟩
  · have hstands (j : Nat) : turns (n + j) ≠ .reset ∧ ByteStands turns states n k j :=
      (hnever j).imp_left (mt .inl)
    have hreset (m : Nat) (hm : n ≤ m) : turns m ≠ .reset := by
      obtain ⟨j, rfl⟩ := Nat.exists_eq_add_of_le hm
      exact (hstands j).1
    obtain ⟨i, hquiet⟩ := h.1.exists_quiet fun j => (hstands j).2.1
    have hni : n ≤ n + i := Nat.le_add_right n i
    obtain ⟨x, hx, hend⟩ := h.exists_atEnd (hk.mono hni) (fun m hm => hreset m (hni.trans hm)) hquiet
    exact .inr ⟨hstands, x, fun j hj => hend (n + j) (hj.trans (Nat.le_add_left j n))⟩

end Sys2Proof.Machine
